-- ==== Sys2Proof/Word.lean ====
section
/-! DEFINITION. The word types of the GH-4V: what the spec treats as bits (00_scope section 5). -/

namespace Sys2Proof

/-- A memory word, 32 bits (00_scope section 5.1). -/
abbrev Word := BitVec 32

/-- A word address of 20 bits (00_scope section 5.1). -/
abbrev Addr := BitVec 20

/-- A cue-link character, a code or a note field: 8 bits. -/
abbrev Byte := BitVec 8

/-- A sample inside the part: a signed 24-bit value (00_scope section 5.2). -/
abbrev Sample := BitVec 24

/-- A read position: a 32-bit capture position with 16 fraction bits (00_scope section 5.5, R61). -/
abbrev Position := BitVec 48

end Sys2Proof
end

