-- ==== Sys2Proof/Config.lean ====
section
/-! DEFINITION. What the part fixes once for all: capacities and time spans of its blocks. -/

namespace Sys2Proof.Config

/-- Entries of the write post queue (R149). -/
abbrev postQueueSize : Nat := 8
/-- Queue length from which a drain has rank 2 (R152). -/
abbrev drainPressure : Nat := 6
/-- Events the event queue holds (R172). -/
abbrev eventQueueSize : Nat := 8
/-- Cues the AT list and the ONSET list hold together (R129). -/
abbrev cueListSize : Nat := 24
/-- Records of the pitch history (R26). -/
abbrev historySize : Nat := 8
/-- Samples of the analysis buffer and of a frame (R15, R16). -/
abbrev frameSize : Nat := 2048
/-- Samples of a hop (R7). -/
abbrev hopSize : Nat := 256
/-- The largest gap taken as a small gap (R3). -/
abbrev smallGap : Nat := 256
/-- Where the fill is held (R8). -/
abbrev fillLimit : Nat := 65536
/-- A ratio of exactly 1, in 1/65,536 (R61). -/
abbrev unityRatio : Nat := 65536
/-- The largest shift either way, in cents (R55). -/
abbrev shiftLimit : Int := 2400
/-- Cents of an octave (00_scope section 5.3). -/
def octave : Nat := 1200
/-- Cents of two octaves: the power that clears the half cent of a rounding. -/
def twoOctaves : Nat := 2400
/-- The power of two that makes every cent's power whole in the search for a pitch value. -/
def centBias : Nat := 16385
/-- The power of two of 65,536^1,200 times 2^1,200: it clears the half of a ratio's rounding. -/
def ratioBias : Nat := 20400
/-- Words of external memory (00_scope section 2). -/
abbrev memoryWords : Nat := 1048576
/-- Words of the control window (R140). -/
abbrev controlWords : Nat := 1024

end Sys2Proof.Config
end

