-- ==== Sys2Proof/Syntax.lean ====
section
/-! DEFINITION. The commands of the GH-4V: one constructor per row of spec/opcode_table.json.
The part is a block, not a processor: a command is something the outside world does to it, or a
moment of its own engines that the table names (notes/assumptions/1.md, 10.md, 29.md). -/

namespace Sys2Proof

/-- When a cue is due (R126, section 11.6): the due codes 0, 1 and 2. -/
inductive Due where
  | now
  | atStamp (stamp : Word)
  | onset
deriving DecidableEq, Repr

/-- What LINK_CHARACTER_TAKEN brings from the line: a character's fall alone, where another step comes
before the character ends, or the character's eleven samples (R116; notes/assumptions/11.md). -/
inductive LinkSignal where
  | fall
  | samples (line : BitVec 11)
deriving DecidableEq, Repr

/-- The commands. A processor write carries its address and data, a processor read its address; the
address decides what the cycle becomes (R138, R142, R144). The nine cue rows carry a whole cue-link
message: its address character, due, payload characters, and the pattern by which the received CRC
differs from the right one (0 when none does). The link rows carry the eleven samples of a
character, bit 0 the start bit, bits 1 to 8 the data, bit 9 the address flag, bit 10 the stop bit
(section 7.1). -/
inductive Instr where
  | resetFall
  | resetRise (cwb : BitVec 4) (stn : BitVec 5)
  | start (sequence : Byte) (upper : BitVec 16)
  | apply (sequence : Byte) (upper : BitVec 16)
  | stop (sequence : Byte) (upper : BitVec 16)
  | restart (sequence : Byte) (upper : BitVec 16)
  | unknownCommand (word : Word)
  | commandCompletion
  | setupWrite (a : Addr) (d : Word)
  | postedWrite (a : Addr) (d : Word)
  | windowFault (a : Addr) (d : Word)
  | writeTakenAfterRoom
  | writeTakenAfterCommand
  | consumerIndexWrite (a : Addr) (d : Word)
  | capture (a : Addr) (d : Word)
  | analysisCompletion
  | chord (dest : Byte) (due : Due) (root shape : Byte) (crcError : BitVec 16)
  | key (dest : Byte) (due : Due) (root scale : Byte) (crcError : BitVec 16)
  | voiceOn (dest : Byte) (due : Due) (mask : Byte) (crcError : BitVec 16)
  | voiceOff (dest : Byte) (due : Due) (mask : Byte) (crcError : BitVec 16)
  | voiceMode (dest : Byte) (due : Due) (voice mode parameter : Byte) (crcError : BitVec 16)
  | hold (dest : Byte) (due : Due) (crcError : BitVec 16)
  | release (dest : Byte) (due : Due) (crcError : BitVec 16)
  | timebase (dest : Byte) (due : Due) (count : Word) (crcError : BitVec 16)
  | clear (dest : Byte) (due : Due) (crcError : BitVec 16)
  | linkBadChar (line : BitVec 11)
  | linkBreak
  | breakEnd
  | linkTruncated
  | voiceStreamRead (a : Addr)
  | voicePeekRead (a : Addr)
  | mixStreamRead (a : Addr)
  | mixPeekRead (a : Addr)
  | voiceStatusRead (a : Addr)
  | trackerStatusRead (a : Addr)
  | mixStatusRead (a : Addr)
  | processorRead (a : Addr)
  | processorReadAccess
  | tapFetch
  | drain
  | ringResetWord
  | statusWordWrite
  | refusalWordWrite
  | reportRecordStart
  | recordWord
  | producerIndexWrite
  | linkCharacterTaken (signal : LinkSignal)
deriving DecidableEq, Repr

end Sys2Proof
end

