-- ==== Sys2Proof/WellFormed.lean ====
section
/-! DEFINITION. Which commands are well formed: a cue row is well formed when its message passes
every check of the receiver that does not depend on the part's state (R121, R126), a character row
when its samples are those of the row's kind of character (R116). Every other command is. A command
that is not well formed still has its meaning: the part answers it with the event the spec gives. -/

namespace Sys2Proof

/-- TIMEBASE and CLEAR are due NOW (R126, check 4). -/
def Due.isNow : Due → Bool
  | .now => true
  | .atStamp _ => false
  | .onset => false

/-- The VOICE_MODE parameter, a signed character, lies in its mode's range (R39, R126). -/
def modeParameterOk (mode parameter : Byte) : Bool :=
  match mode.toNat with
  | 0 => decide (-7 ≤ parameter.toInt ∧ parameter.toInt ≤ 7)
  | 1 => decide (-4 ≤ parameter.toInt ∧ parameter.toInt ≤ 4)
  | 2 => decide (-24 ≤ parameter.toInt ∧ parameter.toInt ≤ 24)
  | 3 => decide (0 ≤ parameter.toInt)
  | _ => false

/-- A voice mask names one to four voices (R40, R126). -/
def maskOk (mask : Byte) : Bool := decide (1 ≤ mask.toNat ∧ mask.toNat ≤ 15)

/-- A taken character: start bit low, stop bit high (R116). -/
def goodCharacter (line : BitVec 11) : Bool := !line.getLsbD 0 && line.getLsbD 10

/-- A character that may become a framing error: start bit low, stop bit low (R116). -/
def badStop (line : BitVec 11) : Bool := !line.getLsbD 0 && !line.getLsbD 10

/-- A fall, or the samples of a character that is taken. -/
def goodSignal (signal : LinkSignal) : Bool :=
  match signal with
  | .fall => true
  | .samples line => goodCharacter line

/-- Well-formedness of a command. -/
def Instr.wellFormed (i : Instr) : Bool :=
  match i with
  | .resetFall => true
  | .resetRise _ _ => true
  | .start _ _ => true
  | .apply _ _ => true
  | .stop _ _ => true
  | .restart _ _ => true
  | .unknownCommand _ => true
  | .commandCompletion => true
  | .setupWrite _ _ => true
  | .postedWrite _ _ => true
  | .windowFault _ _ => true
  | .writeTakenAfterRoom => true
  | .writeTakenAfterCommand => true
  | .consumerIndexWrite _ _ => true
  | .capture _ _ => true
  | .analysisCompletion => true
  | .chord _ _ root shape e =>
    decide (root.toNat ≤ 11 ∧ (shape.toNat ≤ 15 ∨ shape.toNat = 255) ∧ e = 0)
  | .key _ _ root scale e => decide (root.toNat ≤ 11 ∧ scale.toNat ≤ 7 ∧ e = 0)
  | .voiceOn _ _ mask e => maskOk mask && decide (e = 0)
  | .voiceOff _ _ mask e => maskOk mask && decide (e = 0)
  | .voiceMode _ _ voice mode parameter e =>
    decide (voice.toNat ≤ 3) && modeParameterOk mode parameter && decide (e = 0)
  | .hold _ _ e => decide (e = 0)
  | .release _ _ e => decide (e = 0)
  | .timebase _ due _ e => due.isNow && decide (e = 0)
  | .clear _ due e => due.isNow && decide (e = 0)
  | .linkBadChar line => badStop line
  | .linkBreak => true
  | .breakEnd => true
  | .linkTruncated => true
  | .voiceStreamRead _ => true
  | .voicePeekRead _ => true
  | .mixStreamRead _ => true
  | .mixPeekRead _ => true
  | .voiceStatusRead _ => true
  | .trackerStatusRead _ => true
  | .mixStatusRead _ => true
  | .processorRead _ => true
  | .processorReadAccess => true
  | .tapFetch => true
  | .drain => true
  | .ringResetWord => true
  | .statusWordWrite => true
  | .refusalWordWrite => true
  | .reportRecordStart => true
  | .recordWord => true
  | .producerIndexWrite => true
  | .linkCharacterTaken signal => goodSignal signal

end Sys2Proof
end

