-- ==== Sys2Proof/Decode.lean ====
section
/-! DEFINITION. The table's bits: spec/opcode_table.json gives no row any bits (its reader read 47 of
47 rows without), so no word spells a command. -/

namespace Sys2Proof

/-- The command a word spells by the table's bits: none, for no row of the table has bits. -/
def decodeTableWord (_nbits _w : Nat) : Option Instr := none

end Sys2Proof
end

