-- ==== Sys2Proof/Machine/State.lean ====
section
/-! DEFINITION. The state of the GH-4V as plain data, block by block as 00_scope section 3 owns it,
and the state after power-on reset. -/

namespace Sys2Proof.Machine

/-- Why a step stops with a fault. -/
inductive Fault where
  /-- A processor cycle was given while one is held on PWAIT. The spec says none can arrive (R138):
  raised by every processor read and write row. Safe: the model stops where nothing is specified. -/
  | processorCycleOverlap
deriving DecidableEq, Repr

/-- Why a step is refused. -/
inductive Refusal where
  /-- The command has no meaning in the model: raised by `exec` alone, for a row not modelled yet
  (none is left). Safe. -/
  | notModelled (mnemonic : String)
deriving DecidableEq, Repr

/-! ### Setup tables (R157 to R159, section 11.3) -/

/-- The general setup, field widths as section 11.3 lays them out. -/
structure General where
  sampleRate : BitVec 17
  tmin : BitVec 11
  tmax : BitVec 11
  diffThreshold : BitVec 8
  voicing : BitVec 8
  silence : BitVec 5
  tuning : BitVec 8
  hysteresis : BitVec 6
  noteHold : BitVec 4
  unvoicedHold : BitVec 5
  lagLow : BitVec 16
  lagCenter : BitVec 16
  lagHigh : BitVec 16
  xf : BitVec 10
  jump : BitVec 11
  keyRoot : BitVec 4
  keyScale : BitVec 3
  divisor : BitVec 12
  group : BitVec 8
  eventMask : BitVec 18
  urgentMask : BitVec 18
  trigger : BitVec 10
  timeout : BitVec 8
deriving DecidableEq, Repr

/-- A window entry as written: role and format are codes of section 11.6 (R141, R156). -/
structure WindowEntry where
  base : BitVec 20
  size : BitVec 32
  role : BitVec 4
  format : BitVec 4
  records : BitVec 32
deriving DecidableEq, Repr

/-- A voice setup (R158). -/
structure VoiceSetup where
  startEnabled : Bool
  correct : Bool
  avoid : Bool
  mode : BitVec 4
  parameter : BitVec 8
  fallback : BitVec 8
  lowNote : BitVec 8
  highNote : BitVec 8
  gain : BitVec 8
  glide : BitVec 12
deriving DecidableEq, Repr

/-- A whole setup, shadow or active (R156, R160). -/
structure Setup where
  general : General
  windows : Vector WindowEntry 7
  voices : Vector VoiceSetup 4
  scales : Vector (BitVec 12) 8
  shapes : Vector (BitVec 12) 16
deriving DecidableEq, Repr

/-- Engine states (00_scope section 4). -/
inductive Engine where
  | idle | running | halted
deriving DecidableEq, Repr

/-- Results of a command (R164). -/
inductive CommandResult where
  | done | rejected | illegal
deriving DecidableEq, Repr

/-- Validation reasons (R161). -/
inductive Reason where
  | none | badWindow | roleCount | overlap | trackerRange | lagRange | voiceField | table | linkRate
  | reportSize
deriving DecidableEq, Repr

/-- The content of a status word (R164) with the command code for CMD_DONE. -/
structure StatusWrite where
  sequence : Byte
  code : Byte
  result : CommandResult
  reason : Reason
  detail : Byte
deriving DecidableEq, Repr

/-- A command in progress: taken, ready, and with effects (R162, R163). `touchesRing` says it resets
or removes the report ring; `completed` that its effects are done and ring-reset words are left. -/
structure Command where
  code : Byte
  sequence : Byte
  touchesRing : Bool
  completed : Bool
deriving DecidableEq, Repr

/-- The Setup Unit. The command-in-progress flag is `command.isSome`; a status word is being written
while `status` is present. -/
structure SetupUnit where
  shadow : Setup
  active : Setup
  command : Option Command
  status : Option StatusWrite
  engine : Engine
deriving DecidableEq, Repr

/-- The window map (R141): entry 0 and entries 1 to 7. -/
structure WindowMap where
  entry0 : WindowEntry
  entries : Vector WindowEntry 7
deriving DecidableEq, Repr

/-! ### Capture and tracking (01, 02) -/

/-- The Capture Unit: the sync flag is `offset.isSome`. -/
structure CaptureUnit where
  offset : Option Nat
  c : Word
  fill : Nat
  count : Word
deriving DecidableEq, Repr

/-- The parameter copy of an analysis (R16). -/
structure AnalysisParams where
  tmin : Nat
  tmax : Nat
  diffThreshold : Nat
  voicing : Nat
  silence : Nat
  sampleRate : Nat
  tuning : Int
deriving DecidableEq, Repr

/-- An analysis in flight (R16): the frame, newest sample first. -/
structure Analysis where
  frame : List Sample
  stamp : Word
  generation : BitVec 16
  params : AnalysisParams
deriving DecidableEq, Repr

/-- A pitch record (R25); the period in 1/16 samples. -/
structure PitchRecord where
  stamp : Word
  voiced : Bool
  silent : Bool
  period : Option Nat
  pitch : Option Nat
  confidence : Nat
  headroom : Nat
deriving DecidableEq, Repr

/-- The Pitch Tracker: buffer and history newest first. -/
structure Tracker where
  buffer : List Sample
  inFlight : Option Analysis
  generation : BitVec 16
  history : List PitchRecord
  sung : Option Nat
  outside : Nat
  unvoiced : Nat
  newRecord : Bool
  skipped : Bool
deriving DecidableEq, Repr

/-! ### Planner and cues (03, 07) -/

/-- Voice modes (R39). -/
inductive Mode where
  | scale | chord | fixed | pedal
deriving DecidableEq, Repr

/-- A live mode: mode, parameter, CHORD fallback degrees (R39). -/
structure LiveMode where
  mode : Mode
  parameter : Int
  fallback : Int
deriving DecidableEq, Repr

/-- A key: root pitch class and scale index (R37). -/
structure Key where
  root : Nat
  scale : Nat
deriving DecidableEq, Repr

/-- A chord: root pitch class and shape index (R37). -/
structure Chord where
  root : Nat
  shape : Nat
deriving DecidableEq, Repr

/-- What the planner holds for one voice; `handed` is the note the Voice Engine last received, none
when it received no target (R48). -/
structure VoicePlan where
  enable : Bool
  newlyEnabled : Bool
  live : LiveMode
  deferredMode : Option (Mode × Int)
  note : Option Nat
  shift : Option Int
  handed : Option Nat
deriving DecidableEq, Repr

/-- The Harmony Planner. A deferred chord may be a chord, none (`some none`) or absent. -/
structure Planner where
  key : Key
  chord : Option Chord
  hold : Bool
  deferredKey : Option Key
  deferredChord : Option (Option Chord)
  voices : Vector VoicePlan 4
deriving DecidableEq, Repr

/-- The cues that may stand in a list: all kinds but TIMEBASE and CLEAR (R126, R128). -/
inductive MusicalCue where
  | chord (chord : Option Chord)
  | key (key : Key)
  | voiceOn (mask : BitVec 4)
  | voiceOff (mask : BitVec 4)
  | voiceMode (voice : Fin 4) (mode : Mode) (parameter : Int)
  | hold
  | release
deriving DecidableEq, Repr

/-- Every cue (R128). -/
inductive Cue where
  | musical (cue : MusicalCue)
  | timebase (count : Word)
  | clear
deriving DecidableEq, Repr

/-- An entry of the AT list (R129). -/
structure AtEntry where
  cue : MusicalCue
  stamp : Word
deriving DecidableEq, Repr

/-- The Cue Scheduler. -/
structure Scheduler where
  atList : List AtEntry
  onsetList : List MusicalCue
deriving DecidableEq, Repr

/-- Receiver states (R118). -/
inductive ReceiverState where
  | off | asleep | awake | inBreak
deriving DecidableEq, Repr

/-- The Cue Receiver: station straps, divisor in force, assembly buffer in arrival order, whether the
character timer runs, and whether the line is low: a fall has come and no rise since (R116, R118). -/
structure Receiver where
  state : ReceiverState
  station : BitVec 5
  divisor : BitVec 12
  buffer : List Byte
  timer : Bool
  lineLow : Bool
deriving DecidableEq, Repr

/-! ### Voices (04, 05) -/

/-- Voice states (R62). -/
inductive VoiceState where
  | silent | parked | entering | sounding | leaving
deriving DecidableEq, Repr

/-- A target: note and shift, present or absent as a pair (R61). -/
structure Target where
  note : Nat
  shift : Int
deriving DecidableEq, Repr

/-- A crossfade: the new grain Q, progress k and length L (R61, R92). -/
structure Crossfade where
  q : Position
  k : Nat
  length : Nat
deriving DecidableEq, Repr

/-- A voice record (R61). -/
structure VoiceRecord where
  state : VoiceState
  enable : Bool
  fade : Nat
  p : Option Position
  xfade : Option Crossfade
  splicePending : Bool
  target : Option Target
  current : Int
  ratio : Nat
  clipped : Bool
  targetChanged : Bool
deriving DecidableEq, Repr

/-- Claims of the planner on a voice record (section 4.4). -/
inductive Claim where
  | enable (target : Option Target)
  | disable
  | update (target : Target)
  | withdraw
  | shift (shift : Int)
deriving DecidableEq, Repr

/-- The Voice Engine. -/
structure VoiceEngine where
  voices : Vector VoiceRecord 4
  mixClipped : Bool
deriving DecidableEq, Repr

/-! ### Reports (10) -/

/-- Event kinds, 1 to 18 in this order (section 10.1). -/
inductive EventKind where
  | cmdDone | windowFault | captureGap | captureBackward | captureRestart | noteChange | voiceRange
  | hardSplice | clip | cueLate | cueOverflow | cueDropped | linkBadChar | linkBadCrc | linkTruncated
  | linkBadCue | linkBreak | reportIndex
deriving DecidableEq, Repr

/-- An event (section 10.1); `detail` is its code of section 11.6. -/
structure Event where
  kind : EventKind
  detail : Byte
  voice : Option (Fin 4)
  value : Word
  second : Word
  stamp : Word
deriving DecidableEq, Repr

/-- What the Report Unit keeps of an unconsumed record (R177). -/
structure Produced where
  kind : EventKind
  hop : Word
deriving DecidableEq, Repr

/-- The Report Unit: `unconsumed` oldest first; `ringWritten` says the ring-reset words of the
REPORT entry have been written (R174); `record` is the kind of the record in flight. -/
structure ReportUnit where
  queue : List Event
  lost : Bool
  producer : Nat
  consumer : Nat
  unconsumed : List Produced
  hopCounter : Word
  ringWritten : Bool
  record : Option EventKind
deriving DecidableEq, Repr

/-! ### The bus path (08) and tap reads (06) -/

/-- An entry of the write post queue (R149). -/
structure QueueEntry where
  addr : Addr
  data : Word
deriving DecidableEq, Repr

/-- Who requests a part write, and which of its words it is (R153, R163, R174). -/
inductive PartOwner where
  | ringReset (word : Fin 3)
  | status
  | refusal
  | record (word : Fin 4)
  | producer
deriving DecidableEq, Repr

/-- A part write (R153). -/
structure PartWrite where
  owner : PartOwner
  addr : Addr
  data : Word
deriving DecidableEq, Repr

/-- The four kinds of memory access (R139). -/
inductive AccessKind where
  | processorRead (a : Addr)
  | tapFetch (a : Addr)
  | drain (entry : QueueEntry)
  | partWrite (write : PartWrite)
deriving DecidableEq, Repr

/-- A memory access in progress. `live` is cleared by a fall of RESET: the access completes, and
nobody waits for it any more (R140). -/
structure Access where
  kind : AccessKind
  live : Bool
deriving DecidableEq, Repr

/-- The voice a tap read is working on: its record after the hard check, the words fetched so far,
and the addresses still to fetch, in the order of R87. -/
structure VoiceWork where
  voice : Fin 4
  record : VoiceRecord
  words : List Word
  left : List Addr
deriving DecidableEq, Repr

/-- A tap read at offsets 0 to 9 in flight (R76, R101, R113): the count and the splice period as
taken, the voices still to begin, the voice in work, the records it will leave, the sum of the output
values so far, and the claims held back for it. -/
structure TapRead where
  addr : Addr
  offset : Nat
  stamp : Word
  period : Option Nat
  todo : List (Fin 4)
  work : Option VoiceWork
  moved : List (Fin 4 × VoiceRecord)
  total : Int
  claims : List (Fin 4 × Claim)
deriving DecidableEq, Repr

/-- The processor cycle held on PWAIT (R138, R140, R148, R149). -/
inductive Cycle where
  | read (a : Addr)
  | tap (read : TapRead)
  | writeForRoom (a : Addr) (d : Word)
  | writeForCommand (a : Addr) (d : Word)
  | readInReset (a : Addr)
  | writeInReset (a : Addr) (d : Word)
deriving DecidableEq, Repr

/-- The Bus Path Unit. -/
structure BusPath where
  queue : List QueueEntry
  port : Option Access
  requests : List PartWrite
  cycle : Option Cycle
deriving DecidableEq, Repr

/-- The external memory: a list of (address, word) pairs in canonical form (Machine/Ops.lean). -/
abbrev Memory := List (Nat × Word)

/-- The machine. `pending` is the queue of commands still to be taken, first in, first out; `pd` is
what the part drives on PD at the end of the step (R179). -/
structure State where
  pending : List Instr
  resetLow : Bool
  pd : Option Word
  mem : Memory
  bus : BusPath
  map : WindowMap
  setup : SetupUnit
  cap : CaptureUnit
  trk : Tracker
  pln : Planner
  vce : VoiceEngine
  crx : Receiver
  csc : Scheduler
  rpt : ReportUnit
deriving DecidableEq, Repr

/-! ### Power-on reset -/

/-- General setup defaults (R157). -/
def General.default : General where
  sampleRate := 48000
  tmin := 24
  tmax := 600
  diffThreshold := 38
  voicing := 160
  silence := 12
  tuning := 0
  hysteresis := 15
  noteHold := 2
  unvoicedHold := 3
  lagLow := 400
  lagCenter := 1000
  lagHigh := 1600
  xf := 128
  jump := 480
  keyRoot := 0
  keyScale := 0
  divisor := 26
  group := 255
  eventMask := 0x3FFFF
  urgentMask := 0x10090
  trigger := 4
  timeout := 8

/-- A window entry after power-on: role OFF (R158); its other fields are 0, DESIGN CHOICE
(notes/assumptions/5.md). -/
def WindowEntry.off : WindowEntry where
  base := 0
  size := 0
  role := 0
  format := 0
  records := 0

/-- The control window placed by the CWB straps (R140, R141): role code 5, CONTROL. -/
def WindowEntry.control (cwb : BitVec 4) : WindowEntry where
  base := cwb ++ 0#16
  size := 1024
  role := 5
  format := 0
  records := 0

/-- Voice setup defaults, parameter and fallback degrees given (R158). -/
def VoiceSetup.default (parameter : BitVec 8) : VoiceSetup where
  startEnabled := false
  correct := false
  avoid := true
  mode := 0
  parameter := parameter
  fallback := parameter
  lowNote := 48
  highNote := 84
  gain := 128
  glide := 100

/-- The whole default setup (R156 to R159). -/
def Setup.default : Setup where
  general := General.default
  windows := Vector.replicate 7 WindowEntry.off
  voices := #v[VoiceSetup.default 2, VoiceSetup.default (-2), VoiceSetup.default 4,
    VoiceSetup.default (-3)]
  scales := #v[0xAB5, 0x5AD, 0x9AD, 0x6AD, 0x6B5, 0x295, 0x4A9, 0xFFF]
  shapes := #v[0x091, 0x089, 0x049, 0x111, 0x0A1, 0x491, 0x891, 0x489, 0, 0, 0, 0, 0, 0, 0, 0]

/-- The window map after the rise of RESET (R140). -/
def WindowMap.powerOn (cwb : BitVec 4) : WindowMap where
  entry0 := WindowEntry.control cwb
  entries := Vector.replicate 7 WindowEntry.off

/-- The capture state after power-on reset, START and RESTART (R12). -/
def CaptureUnit.start : CaptureUnit where
  offset := none
  c := 0
  fill := 0
  count := 0

/-- The tracker after power-on reset (R35). -/
def Tracker.powerOn : Tracker where
  buffer := []
  inFlight := none
  generation := 0
  history := []
  sung := none
  outside := 0
  unvoiced := 0
  newRecord := false
  skipped := false

/-- One voice's plan after power-on reset: the default SCALE mode with its parameter (R39, R58). -/
def VoicePlan.powerOn (parameter : Int) : VoicePlan where
  enable := false
  newlyEnabled := false
  live := ⟨.scale, parameter, parameter⟩
  deferredMode := none
  note := none
  shift := none
  handed := none

/-- The planner after power-on reset (R37, R58). -/
def Planner.powerOn : Planner where
  key := ⟨0, 0⟩
  chord := none
  hold := false
  deferredKey := none
  deferredChord := none
  voices := #v[VoicePlan.powerOn 2, VoicePlan.powerOn (-2), VoicePlan.powerOn 4,
    VoicePlan.powerOn (-3)]

/-- A voice record after power-on reset (R80). -/
def VoiceRecord.powerOn : VoiceRecord where
  state := .silent
  enable := false
  fade := 0
  p := none
  xfade := none
  splicePending := false
  target := none
  current := 0
  ratio := 65536
  clipped := false
  targetChanged := false

/-- The machine right after power-on reset: RESET has risen with the straps CWB and STN read as 0
(DESIGN CHOICE, notes/assumptions/3.md), memory lists nothing, no command waits. -/
def State.reset : State where
  pending := []
  resetLow := false
  pd := none
  mem := []
  bus := ⟨[], none, [], none⟩
  map := WindowMap.powerOn 0
  setup := ⟨Setup.default, Setup.default, none, none, .idle⟩
  cap := CaptureUnit.start
  trk := Tracker.powerOn
  pln := Planner.powerOn
  vce := ⟨Vector.replicate 4 VoiceRecord.powerOn, false⟩
  crx := ⟨.off, 0, 26, [], false, false⟩
  csc := ⟨[], []⟩
  rpt := ⟨[], false, 0, 0, [], 0, false, none⟩

end Sys2Proof.Machine
end

