-- ==== Sys2Proof/Machine/Operands.lean ====
section
/-! DEFINITION. Codes and bit layouts: how the part takes fields out of words and characters and makes
words of fields (R103, R180, sections 11.3 to 11.6). -/

namespace Sys2Proof.Machine

/-- The largest number below `2 ^ bits` beyond `base` that satisfies a downward closed test: bit by
bit, highest first. -/
def searchLargest (test : Nat → Bool) : Nat → Nat → Nat
  | 0, base => base
  | bits + 1, base =>
    searchLargest test bits (if test (base + 2 ^ bits) then base + 2 ^ bits else base)

/-- A vector with its element `i` rewritten; unchanged where `i` is out of range. -/
def updateAt {α : Type} {n : Nat} (v : Vector α n) (i : Nat) (f : α → α) : Vector α n :=
  if h : i < n then v.set i (f v[i]) h else v

/-! ### Codes (section 11.6) -/

/-- Window roles (R141); `control` belongs to entry 0. -/
inductive Role where
  | off | input | tap | report | protect | control
deriving DecidableEq, Repr

/-- The role a code names; an unknown code names none. -/
def Role.ofCode (code : BitVec 4) : Option Role :=
  match code.toNat with
  | 0 => some .off
  | 1 => some .input
  | 2 => some .tap
  | 3 => some .report
  | 4 => some .protect
  | 5 => some .control
  | _ => none

/-- The code of a role. -/
def Role.code : Role → Byte
  | .off => 0
  | .input => 1
  | .tap => 2
  | .report => 3
  | .protect => 4
  | .control => 5

/-- Sample formats (00_scope section 5.2). -/
inductive Format where
  | s16r | s24r | s24l
deriving DecidableEq, Repr

/-- The format a code names; an unknown code cannot pass validation (R143) and is read as S16R. -/
def Format.ofCode (code : BitVec 4) : Format :=
  match code.toNat with
  | 1 => .s24r
  | 2 => .s24l
  | _ => .s16r

/-- The mode a code names (section 11.6). -/
def Mode.ofCode (code : Nat) : Option Mode :=
  match code with
  | 0 => some .scale
  | 1 => some .chord
  | 2 => some .fixed
  | 3 => some .pedal
  | _ => none

/-- Whether a parameter lies in its mode's range (R39). -/
def Mode.inRange (mode : Mode) (parameter : Int) : Bool :=
  match mode with
  | .scale => decide (-7 ≤ parameter ∧ parameter ≤ 7)
  | .chord => decide (-4 ≤ parameter ∧ parameter ≤ 4)
  | .fixed => decide (-24 ≤ parameter ∧ parameter ≤ 24)
  | .pedal => decide (0 ≤ parameter ∧ parameter ≤ 127)

/-- Engine state codes. -/
def Engine.code : Engine → BitVec 2
  | .idle => 0
  | .running => 1
  | .halted => 2

/-- Result codes. -/
def CommandResult.code : CommandResult → BitVec 4
  | .done => 1
  | .rejected => 2
  | .illegal => 3

/-- Reason codes. -/
def Reason.code : Reason → BitVec 4
  | .none => 0
  | .badWindow => 1
  | .roleCount => 2
  | .overlap => 3
  | .trackerRange => 4
  | .lagRange => 5
  | .voiceField => 6
  | .table => 7
  | .linkRate => 8
  | .reportSize => 9

/-- Voice state codes. -/
def VoiceState.code : VoiceState → BitVec 3
  | .silent => 0
  | .parked => 1
  | .entering => 2
  | .sounding => 3
  | .leaving => 4

/-- Event kind numbers (section 10.1). -/
def EventKind.number : EventKind → Nat
  | .cmdDone => 1
  | .windowFault => 2
  | .captureGap => 3
  | .captureBackward => 4
  | .captureRestart => 5
  | .noteChange => 6
  | .voiceRange => 7
  | .hardSplice => 8
  | .clip => 9
  | .cueLate => 10
  | .cueOverflow => 11
  | .cueDropped => 12
  | .linkBadChar => 13
  | .linkBadCrc => 14
  | .linkTruncated => 15
  | .linkBadCue => 16
  | .linkBreak => 17
  | .reportIndex => 18

/-- Cue kind codes (section 11.6). -/
def MusicalCue.code : MusicalCue → Byte
  | .chord _ => 1
  | .key _ => 2
  | .voiceOn _ => 3
  | .voiceOff _ => 4
  | .voiceMode _ _ _ => 5
  | .hold => 6
  | .release => 7

/-- Cue kind codes (section 11.6). -/
def Cue.code : Cue → Byte
  | .musical cue => cue.code
  | .timebase _ => 8
  | .clear => 9

/-- Due codes (section 11.6). -/
def dueCode : Due → Byte
  | .now => 0
  | .atStamp _ => 1
  | .onset => 2

/-- The note field of a word: 255 for none (R180). -/
def noteField (note : Option Nat) : Byte :=
  match note with
  | some n => BitVec.ofNat 8 n
  | none => 255

/-! ### Samples (R103) -/

/-- A word of the INPUT window read into a sample (R103). -/
def sampleOf (format : Format) (w : Word) : Sample :=
  match format with
  | .s16r => (w.extractLsb' 0 16).signExtend 24
  | .s24r => w.extractLsb' 0 24
  | .s24l => w.extractLsb' 8 24

/-- A value held to a range (00_scope section 5.2). -/
def saturate (low high v : Int) : Int := if v < low then low else if high < v then high else v

/-- Saturation to the 24-bit range (R71, R106). -/
def saturate24 (v : Int) : Int := saturate (-8388608) 8388607 v

/-- Saturation to a format's range (R103). -/
def saturateFormat (format : Format) (v : Int) : Int :=
  match format with
  | .s16r => saturate (-32768) 32767 v
  | .s24r => saturate24 v
  | .s24l => saturate24 v

/-- A saturated value laid into a word (R103). -/
def sampleWord (format : Format) (v : Int) : Word :=
  match format with
  | .s16r => (BitVec.ofInt 16 v).signExtend 32
  | .s24r => (BitVec.ofInt 24 v).signExtend 32
  | .s24l => BitVec.ofInt 24 v ++ 0#8

/-! ### The setup words of the control window (R156, section 11.3) -/

/-- The fields of a general setup word, by offset 16 to 26; other offsets hold none. -/
def setGeneralWord (offset : Nat) (d : Word) (g : General) : General :=
  match offset with
  | 16 => { g with sampleRate := d.extractLsb' 0 17 }
  | 17 => { g with tmin := d.extractLsb' 0 11, tmax := d.extractLsb' 16 11 }
  | 18 => { g with
      diffThreshold := d.extractLsb' 0 8
      voicing := d.extractLsb' 8 8
      silence := d.extractLsb' 16 5
      tuning := d.extractLsb' 24 8 }
  | 19 => { g with
      hysteresis := d.extractLsb' 0 6
      noteHold := d.extractLsb' 8 4
      unvoicedHold := d.extractLsb' 16 5 }
  | 20 => { g with lagLow := d.extractLsb' 0 16, lagCenter := d.extractLsb' 16 16 }
  | 21 => { g with lagHigh := d.extractLsb' 0 16, xf := d.extractLsb' 16 10 }
  | 22 => { g with
      jump := d.extractLsb' 0 11
      keyRoot := d.extractLsb' 16 4
      keyScale := d.extractLsb' 20 3 }
  | 23 => { g with divisor := d.extractLsb' 0 12, group := d.extractLsb' 16 8 }
  | 24 => { g with eventMask := d.extractLsb' 0 18 }
  | 25 => { g with urgentMask := d.extractLsb' 0 18 }
  | 26 => { g with trigger := d.extractLsb' 0 10, timeout := d.extractLsb' 16 8 }
  | _ => g

/-- The fields of word 0 to 3 of a window entry. -/
def setWindowWord (word : Nat) (d : Word) (e : WindowEntry) : WindowEntry :=
  match word with
  | 0 => { e with base := d.extractLsb' 0 20 }
  | 1 => { e with size := d }
  | 2 => { e with role := d.extractLsb' 0 4, format := d.extractLsb' 8 4 }
  | 3 => { e with records := d }
  | _ => e

/-- The fields of word 0 to 2 of a voice setup; words 3 to 15 hold none. -/
def setVoiceWord (word : Nat) (d : Word) (v : VoiceSetup) : VoiceSetup :=
  match word with
  | 0 => { v with
      startEnabled := d.getLsbD 0
      correct := d.getLsbD 1
      avoid := d.getLsbD 2
      mode := d.extractLsb' 8 4
      parameter := d.extractLsb' 16 8
      fallback := d.extractLsb' 24 8 }
  | 1 => { v with
      lowNote := d.extractLsb' 0 8
      highNote := d.extractLsb' 8 8
      gain := d.extractLsb' 16 8 }
  | 2 => { v with glide := d.extractLsb' 0 12 }
  | _ => v

/-- Whether a control-window offset lies in a setup area (R145). -/
def isSetupOffset (offset : Nat) : Bool :=
  decide ((16 ≤ offset ∧ offset ≤ 91) ∨ (128 ≤ offset ∧ offset ≤ 199) ∨
    (208 ≤ offset ∧ offset ≤ 223))

/-- A setup with the fields of the word at a control-window offset set from a write's data. -/
def setSetupWord (offset : Nat) (d : Word) (s : Setup) : Setup :=
  if offset < 64 then { s with general := setGeneralWord offset d s.general }
  else if offset < 92 then
    { s with windows := updateAt s.windows ((offset - 64) / 4) (setWindowWord ((offset - 64) % 4) d) }
  else if offset < 128 then s
  else if offset < 192 then
    { s with voices := updateAt s.voices ((offset - 128) / 16) (setVoiceWord ((offset - 128) % 16) d) }
  else if offset < 200 then
    { s with scales := updateAt s.scales (offset - 192) (fun _ => d.extractLsb' 0 12) }
  else if offset < 208 then s
  else if offset < 224 then
    { s with shapes := updateAt s.shapes (offset - 208) (fun _ => d.extractLsb' 0 12) }
  else s

/-! ### Words the part makes (R180, sections 11.3 to 11.5) -/

/-- The command word of a code and a sequence, its upper half as written (section 11.3). -/
def commandWord (upper : BitVec 16) (sequence code : Byte) : Word := upper ++ sequence ++ code

/-- The status word (R164). -/
def statusWord (w : StatusWrite) (engine : Engine) : Word :=
  0#6 ++ engine.code ++ w.detail ++ w.reason.code ++ w.result.code ++ w.sequence

/-- The refusal word (R165). -/
def refusalWord (sequence code : Byte) : Word := 0#16 ++ code ++ sequence

/-- The voice status word (R74). -/
def voiceStatusWord (r : VoiceRecord) : Word :=
  BitVec.ofBool r.targetChanged ++ BitVec.ofBool r.clipped ++ BitVec.ofBool r.xfade.isSome ++
    BitVec.ofInt 13 r.current ++ noteField (r.target.map (·.note)) ++ 0#5 ++ r.state.code

/-- The tracker status word (R33): headroom 23 and confidence 0 with an empty history. -/
def trackerStatusWord (t : Tracker) : Word :=
  let latest := t.history.head?
  let voiced := (latest.map (·.voiced)).getD false
  let confidence := (latest.map (·.confidence)).getD 0
  let headroom := (latest.map (·.headroom)).getD 23
  BitVec.ofBool t.skipped ++ BitVec.ofBool t.newRecord ++ 0#1 ++ BitVec.ofNat 5 headroom ++
    BitVec.ofNat 8 confidence ++ 0#7 ++ BitVec.ofBool voiced ++ noteField t.sung

/-- The latest-record word (R33). -/
def latestRecordWord (t : Tracker) : Word :=
  let pitch := t.history.head?.bind (·.pitch)
  let period := t.history.head?.bind (·.period)
  0#1 ++ BitVec.ofBool period.isSome ++ BitVec.ofNat 15 (period.getD 0) ++
    BitVec.ofBool pitch.isSome ++ BitVec.ofNat 14 (pitch.getD 0)

/-- The voice field of a record: 255 for none. -/
def voiceField (voice : Option (Fin 4)) : Byte :=
  match voice with
  | some v => BitVec.ofNat 8 v.val
  | none => 255

/-- Word `i` of a report record (section 11.5). -/
def recordWordOf (e : Event) (lost : Bool) (i : Fin 4) : Word :=
  match i with
  | 0 => BitVec.ofBool lost ++ 0#7 ++ voiceField e.voice ++ e.detail ++
      BitVec.ofNat 8 e.kind.number
  | 1 => e.stamp
  | 2 => e.value
  | 3 => e.second

/-- The producer index word of the ring header. -/
def producerWord (p : Nat) : Word := 0#22 ++ BitVec.ofNat 10 p

/-- The word holding N of the ring header. -/
def ringSizeWord (n : Nat) : Word := 0#21 ++ BitVec.ofNat 11 n

/-! ### Characters of the cue link (section 7.1, R121) -/

/-- The eight data bits of the eleven samples, first data bit as bit 0 (R116). -/
def lineValue (line : BitVec 11) : Byte := line.extractLsb' 1 8

/-- The address flag, the tenth bit of the character (R116). -/
def lineFlag (line : BitVec 11) : Bool := line.getLsbD 9

/-- The four characters of a 32-bit number, least significant first (R120, R126). -/
def wordChars (w : Word) : List Byte :=
  [w.extractLsb' 0 8, w.extractLsb' 8 8, w.extractLsb' 16 8, w.extractLsb' 24 8]

/-- The 32-bit number of four characters, least significant first. -/
def charsWord (chars : List Byte) : Word :=
  chars.getD 3 0 ++ chars.getD 2 0 ++ chars.getD 1 0 ++ chars.getD 0 0

/-- One bit of the CRC register's step: shift left, add 1021h where the bit and the top bit differ
(R121). -/
def crcBit (crc : BitVec 16) (bit : Bool) : BitVec 16 :=
  if bit != crc.getLsbD 15 then (crc <<< 1) ^^^ 0x1021 else crc <<< 1

/-- One character into the CRC register, most significant bit first (R121). -/
def crcChar (crc : BitVec 16) (c : Byte) : BitVec 16 :=
  crcBit (crcBit (crcBit (crcBit (crcBit (crcBit (crcBit (crcBit crc (c.getLsbD 7)) (c.getLsbD 6))
    (c.getLsbD 5)) (c.getLsbD 4)) (c.getLsbD 3)) (c.getLsbD 2)) (c.getLsbD 1)) (c.getLsbD 0)

/-- The CRC of L and the body characters (R121). -/
def crcOf (chars : List Byte) : BitVec 16 := chars.foldl crcChar 0xFFFF

end Sys2Proof.Machine
end

