-- ==== Sys2Proof/Machine/Ops.lean ====
section
/-! DEFINITION. The shared operations over the machine: memory, events, the window decoder, the write
post queue and the memory port arbiter (08, R172). -/

namespace Sys2Proof.Machine

/-! ### External memory: a canonical list of words -/

/-- What an address that memory does not list reads as: 0, DESIGN CHOICE (notes/assumptions/4.md). -/
def Memory.unlisted (_a : Nat) : Word := 0

/-- The word at an address. -/
def Memory.read (m : Memory) (a : Nat) : Word :=
  match m with
  | [] => Memory.unlisted a
  | (b, w) :: rest => if b = a then w else Memory.read rest a

/-- Memory with a word written, in canonical form: addresses rising, no entry equal to what an
unlisted address reads as. -/
def Memory.write (m : Memory) (a : Nat) (v : Word) : Memory :=
  match m with
  | [] => if v = Memory.unlisted a then [] else [(a, v)]
  | (b, w) :: rest =>
    if b < a then (b, w) :: Memory.write rest a v
    else if b = a then (if v = Memory.unlisted a then rest else (a, v) :: rest)
    else if v = Memory.unlisted a then (b, w) :: rest
    else (a, v) :: (b, w) :: rest

/-- The canonical form from a least address on. -/
def Memory.wfFrom (low : Nat) (m : Memory) : Bool :=
  match m with
  | [] => true
  | (b, w) :: rest =>
    decide (low ≤ b) && decide (b < Config.memoryWords) && decide (w ≠ Memory.unlisted b) &&
      Memory.wfFrom (b + 1) rest

/-- The canonical form of memory. -/
def Memory.wf (m : Memory) : Bool := Memory.wfFrom 0 m

/-! ### The beginning of a step -/

/-- Every step begins with PD not driven (R179). -/
def beginStep (s : State) : State := { s with pd := none }

/-! ### Events (R172) -/

/-- The REPORT entry of the window map, if there is one. -/
def reportEntry (s : State) : Option WindowEntry :=
  s.map.entries.toList.find? (fun e => decide (Role.ofCode e.role = some .report))

/-- The INPUT entry of the window map; there is exactly one outside IDLE (R143). -/
def inputEntry (s : State) : WindowEntry :=
  (s.map.entries.toList.find? (fun e => decide (Role.ofCode e.role = some .input))).getD
    WindowEntry.off

/-- Whether a mask has the bit of an event kind: bit k - 1 for kind k (section 11.3). -/
def maskHas (mask : BitVec 18) (kind : EventKind) : Bool := mask.getLsbD (kind.number - 1)

/-- Whether an event qualifies for the event queue (R172). -/
def qualifies (s : State) (kind : EventKind) : Bool :=
  decide (s.setup.engine ≠ .idle) && (reportEntry s).isSome &&
    maskHas s.setup.active.general.eventMask kind

/-- An event reaches the Report Unit (R172). -/
def raiseEvent (s : State) (e : Event) : State :=
  if qualifies s e.kind then
    if s.rpt.queue.length < Config.eventQueueSize then
      { s with rpt := { s.rpt with queue := s.rpt.queue ++ [e] } }
    else { s with rpt := { s.rpt with lost := true } }
  else s

/-- Events in order. -/
def raiseEvents (s : State) (es : List Event) : State := es.foldl raiseEvent s

/-- An event stamped with the sample count as it stands. -/
def eventNow (s : State) (kind : EventKind) (detail : Byte) (voice : Option (Fin 4))
    (value second : Word) : Event :=
  ⟨kind, detail, voice, value, second, s.cap.count⟩

/-! ### The window decoder (R141, R142) -/

/-- Whether an address lies in an entry (R141). -/
def WindowEntry.contains (e : WindowEntry) (a : Addr) : Bool :=
  decide (Role.ofCode e.role ≠ some .off ∧ Role.ofCode e.role ≠ none ∧ e.base.toNat ≤ a.toNat ∧
    a.toNat < e.base.toNat + e.size.toNat)

/-- The entries in effect, lowest number first: entry 0 always, the others outside IDLE (R141). A START that
fails in HALTED leaves them in effect (DEDUCED, notes/assumptions/38.md). -/
def entriesInEffect (s : State) : List WindowEntry :=
  match s.setup.engine with
  | .idle => [s.map.entry0]
  | .running => s.map.entry0 :: s.map.entries.toList
  | .halted => s.map.entry0 :: s.map.entries.toList

/-- The entry that decides a cycle: the lowest-numbered one in effect in which its address lies
(R142). -/
def decidingEntry (s : State) (a : Addr) : Option WindowEntry :=
  (entriesInEffect s).find? (fun e => e.contains a)

/-- A cycle's role and offset (R142); none for a pass-through cycle. -/
def classify (s : State) (a : Addr) : Option (Role × Nat) :=
  match decidingEntry s a with
  | none => none
  | some e => (Role.ofCode e.role).map (fun r => (r, a.toNat - e.base.toNat))

/-! ### The write post queue (R149 to R151) -/

/-- A write joins the queue as its newest entry (R149). -/
def postWrite (s : State) (a : Addr) (d : Word) : State :=
  { s with bus := { s.bus with queue := s.bus.queue ++ [⟨a, d⟩] } }

/-- The data of the newest queue entry holding an address (R150). -/
def forwarded (queue : List QueueEntry) (a : Addr) : Option Word :=
  (queue.reverse.find? (fun e => decide (e.addr = a))).map (·.data)

/-- Whether the write post queue is full. -/
def queueFull (s : State) : Bool := decide (Config.postQueueSize ≤ s.bus.queue.length)

/-! ### The memory port arbiter (R152, R153) -/

/-- The access the waiting processor cycle asks for, rank 1. -/
def rankOne (s : State) : Option AccessKind :=
  match s.bus.cycle with
  | some (.read a) => some (.processorRead a)
  | some (.tap r) => (r.work.bind (fun w => w.left.head?)).map .tapFetch
  | some (.writeForRoom _ _) => none
  | some (.writeForCommand _ _) => none
  | some (.readInReset _) => none
  | some (.writeInReset _ _) => none
  | none => none

/-- Whether a processor write is held waiting for room in the queue. -/
def heldForRoom (s : State) : Bool :=
  match s.bus.cycle with
  | some (.writeForRoom _ _) => true
  | _ => false

/-- Whether a requested part write has its address queued (R153). -/
def requestBlocked (s : State) : Bool :=
  s.bus.requests.any (fun w => s.bus.queue.any (fun e => decide (e.addr = w.addr)))

/-- Whether a drain has rank 2 (R152, R153). -/
def drainPressed (s : State) : Bool :=
  decide (Config.drainPressure ≤ s.bus.queue.length) || heldForRoom s || requestBlocked s

/-- What the arbiter grants with the port free: the access, and the part writes still requested. -/
def chooseAccess (s : State) : Option (AccessKind × List PartWrite) :=
  match rankOne s with
  | some k => some (k, s.bus.requests)
  | none =>
    match s.bus.queue, s.bus.requests with
    | [], [] => none
    | [], w :: ws => some (.partWrite w, ws)
    | e :: _, [] => some (.drain e, [])
    | e :: _, w :: ws =>
      if drainPressed s then some (.drain e, w :: ws) else some (.partWrite w, ws)

/-- The arbiter: with the port free and RESET high, one requested access is granted (R152). -/
def grant (s : State) : State :=
  if s.resetLow then s
  else
    match s.bus.port with
    | some _ => s
    | none =>
      match chooseAccess s with
      | none => s
      | some (k, ws) =>
        { s with bus := { s.bus with port := some ⟨k, true⟩, requests := ws } }

/-- A part write is requested, behind those already requested (R153). -/
def requestWrite (s : State) (w : PartWrite) : State :=
  { s with bus := { s.bus with requests := s.bus.requests ++ [w] } }

/-- A held write that can be taken now: there is room, or the command-in-progress flag is clear. It is
taken before any access completes (R149, R163; notes/assumptions/9.md). -/
def heldWriteReady (s : State) : Bool :=
  match s.bus.cycle with
  | some (.writeForRoom _ _) => !queueFull s
  | some (.writeForCommand _ _) => s.setup.command.isNone
  | _ => false

/-- The access completes at the port: the port is free, and a write has left its data in memory
(R139). -/
def freePort (s : State) : State :=
  { s with bus := { s.bus with port := none } }

/-- A word written to external memory. -/
def storeWord (s : State) (a : Addr) (d : Word) : State :=
  { s with mem := Memory.write s.mem a.toNat d }

/-- The word external memory holds. -/
def loadWord (s : State) (a : Addr) : Word := Memory.read s.mem a.toNat

/-- Ends the held processor cycle; a read's data is driven on PD (R138). -/
def endCycle (s : State) (data : Option Word) : State :=
  { s with pd := data, bus := { s.bus with cycle := none } }

/-- The address of a word of the control window. -/
def controlAddr (s : State) (offset : Nat) : Addr := s.map.entry0.base + BitVec.ofNat 20 offset

end Sys2Proof.Machine
end

