-- ==== Sys2Proof/Machine/Flags.lean ====
section
/-! DEFINITION. Flags and lines: the report ring's condition and the attention line (R174, R178), the
output pins (R138, R139, R179), and the flags a read clears (R33, R74, R108). -/

namespace Sys2Proof.Machine

/-! ### The report ring and the attention line -/

/-- The record count N of the REPORT entry; 0 where there is none. -/
def ringSize (s : State) : Nat := ((reportEntry s).map (·.records.toNat)).getD 0

/-- Whether a report ring is in effect (R174). -/
def ringInEffect (s : State) : Bool :=
  decide (s.setup.engine ≠ .idle) && (reportEntry s).isSome && s.rpt.ringWritten

/-- How far `v` lies forward of `c` round a ring of `n` (R174, R175). -/
def ringDistance (n c v : Nat) : Nat := (v + n - c) % n

/-- The number of unconsumed records, (p - c) mod N (R174). -/
def unconsumedCount (s : State) : Nat := ringDistance (ringSize s) s.rpt.consumer s.rpt.producer

/-- The age of a record in hops, modulo 2^32 (R177). -/
def recordAge (s : State) (r : Produced) : Nat := (s.rpt.hopCounter - r.hop).toNat

/-- Whether the oldest unconsumed record has reached the attention timeout (R178). -/
def timeoutReached (s : State) : Bool :=
  match s.rpt.unconsumed with
  | [] => false
  | r :: _ => decide (s.setup.active.general.timeout.toNat ≠ 0 ∧
      s.setup.active.general.timeout.toNat ≤ recordAge s r)

/-- The attention line: asserted exactly when a ring is in effect and the trigger, the timeout or an
urgent record holds (R178). -/
def attention (s : State) : Bool :=
  ringInEffect s &&
    (decide (s.setup.active.general.trigger.toNat ≤ unconsumedCount s) || timeoutReached s ||
      s.rpt.unconsumed.any (fun r => maskHas s.setup.active.general.urgentMask r.kind))

/-! ### Pins -/

/-- PWAIT asserted: a processor cycle is held (R138). -/
def pwait (s : State) : Bool := s.bus.cycle.isSome

/-- ATTN asserted: as the attention condition, negated while RESET is low (R178, R179). -/
def attnPin (s : State) : Bool := !s.resetLow && attention s

/-- The address and the data (for a write) of an access. -/
def AccessKind.onPort : AccessKind → Addr × Option Word
  | .processorRead a => (a, none)
  | .tapFetch a => (a, none)
  | .drain e => (e.addr, some e.data)
  | .partWrite w => (w.addr, some w.data)

/-- MSEL asserted: an access is in progress (R139, R179). -/
def msel (s : State) : Bool := s.bus.port.isSome

/-- MA, while an access is in progress. -/
def maPins (s : State) : Option Addr := s.bus.port.map (fun x => x.kind.onPort.1)

/-- MD as the part drives it: during a memory write access only (R179). -/
def mdPins (s : State) : Option Word := s.bus.port.bind (fun x => x.kind.onPort.2)

/-- MWE asserted: a memory write access is in progress. -/
def mwe (s : State) : Bool := (mdPins s).isSome

/-- MOE asserted: a memory read access is in progress. -/
def moe (s : State) : Bool := msel s && !mwe s

/-! ### Flags cleared by a read -/

/-- The record of a voice replaced. -/
def setVoice (s : State) (v : Fin 4) (r : VoiceRecord) : State :=
  { s with vce := { s.vce with voices := s.vce.voices.set v r } }

/-- The record of a voice. -/
def voiceOf (s : State) (v : Fin 4) : VoiceRecord := s.vce.voices[v]

/-- A read of a voice status word clears CLIPPED and TARGET_CHANGED (R74). -/
def clearVoiceFlags (s : State) (v : Fin 4) : State :=
  setVoice s v { voiceOf s v with clipped := false, targetChanged := false }

/-- A read of the tracker status word clears NEW_RECORD and SKIPPED (R33). -/
def clearTrackerFlags (s : State) : State :=
  { s with trk := { s.trk with newRecord := false, skipped := false } }

/-- A read of the mix status word clears mix CLIPPED (R108). -/
def clearMixFlag (s : State) : State := { s with vce := { s.vce with mixClipped := false } }

end Sys2Proof.Machine
end

