-- ==== Sys2Proof/Machine/PitchTracker.lean ====
section
/-! DEFINITION. The Pitch Tracker (02): the analysis buffer, hops, the six steps of the analysis, the
pitch history and the note decision. -/

namespace Sys2Proof.Machine

/-! ### Buffer, hops and clearing (R15 to R19) -/

/-- A sample joins the analysis buffer as its newest member (R15). -/
def Tracker.push (t : Tracker) (x : Sample) : Tracker :=
  { t with buffer := (x :: t.buffer).take Config.frameSize }

/-- The parameter copy an analysis takes (R16). -/
def analysisParams (g : General) : AnalysisParams where
  tmin := g.tmin.toNat
  tmax := g.tmax.toNat
  diffThreshold := g.diffThreshold.toNat
  voicing := g.voicing.toNat
  silence := g.silence.toNat
  sampleRate := g.sampleRate.toNat
  tuning := g.tuning.toInt

/-- A notified hop: starts an analysis, or is skipped where one is in flight (R16). -/
def Tracker.hop (t : Tracker) (g : General) (stamp : Word) : Tracker :=
  match t.inFlight with
  | none => { t with inFlight := some ⟨t.buffer, stamp, t.generation, analysisParams g⟩ }
  | some _ => { t with skipped := true }

/-- A clearing of the tracker; an analysis in flight stays in flight (R19). -/
def Tracker.cleared (t : Tracker) : Tracker :=
  { t with
    buffer := []
    history := []
    sung := none
    outside := 0
    unvoiced := 0
    generation := t.generation + 1 }

/-- The machine with its tracker cleared. -/
def clearTracker (s : State) : State := { s with trk := s.trk.cleared }

/-! ### The analysis (R20 to R24) -/

/-- The peak magnitude of a frame (R20). -/
def peakOf (x : List Int) : Nat := x.foldl (fun m v => max m v.natAbs) 0

/-- The headroom of a peak: left shifts, 0 to 22, that bring it to 2^22 or more; 23 for 0 (R20). -/
def headroomOf (peak : Nat) : Nat := if peak = 0 then 23 else 22 - Nat.log2 peak

/-- The difference d(lag) over a frame, newest sample first (R21). -/
def difference (x : List Int) (lag : Nat) : Nat :=
  (List.zipWith (fun a b => (a - b).natAbs) (x.take 1024) (x.drop lag)).sum

/-- The normalised differences in 1/65,536, truncated: `index` is lag - TMIN, `sum` the sum of the
differences before (R21). -/
def normalise (ds : List Nat) (index sum : Nat) : List Nat :=
  match ds with
  | [] => []
  | d :: rest =>
    (if sum + d = 0 then 65536 else d * (index + 1) * 65536 / (sum + d)) ::
      normalise rest (index + 1) (sum + d)

/-- From the head of a list, the index of the bottom of its first strictly falling run (R22,
step 2). -/
def followDip (ns : List Nat) (index : Nat) : Nat :=
  match ns with
  | [] => index
  | [_] => index
  | a :: b :: rest => if b < a then followDip (b :: rest) (index + 1) else index

/-- The bottom of the first dip below a threshold (R22, steps 1 and 2). -/
def firstDip (threshold : Nat) (ns : List Nat) (index : Nat) : Option Nat :=
  match ns with
  | [] => none
  | a :: rest =>
    if a < threshold then some (followDip (a :: rest) index) else firstDip threshold rest (index + 1)

/-- The index of the least element, the lowest on a tie, given the best so far (R22, step 3). -/
def leastIndex (ns : List Nat) (index best bestIndex : Nat) : Nat :=
  match ns with
  | [] => bestIndex
  | a :: rest =>
    if a < best then leastIndex rest (index + 1) a index
    else leastIndex rest (index + 1) best bestIndex

/-- The chosen lag as an index from TMIN (R22). -/
def chooseLag (threshold : Nat) (ns : List Nat) : Nat :=
  match firstDip threshold ns 0 with
  | some i => i
  | none => leastIndex ns 0 (ns.headD 0) 0

/-- The period in 1/16 samples from the differences around the chosen lag (R23). -/
def refinePeriod (ds : List Nat) (tmin index : Nat) : Nat :=
  let lag := tmin + index
  if 1 ≤ index ∧ index + 1 < ds.length then
    let a : Int := ds.getD (index - 1) 0
    let b : Int := ds.getD index 0
    let c : Int := ds.getD (index + 1) 0
    let den := a - 2 * b + c
    if 0 < den then
      (16 * (lag : Int) + saturate (-8) 8 ((16 * (a - c) + den) / (2 * den))).toNat
    else 16 * lag
  else 16 * lag

/-- The confidence of a held normalised difference (R24). -/
def confidenceOf (held : Nat) : Nat := 255 - min 255 ((510 * held + 65536) / 131072)

/-- The pitch value of a period in 1/16 samples (00_scope section 5.3, R24): 6,900 plus the nearest
cent of 1,200 log2 (16 rate / (440 period)), an exact half up, plus the tuning, clamped. The cent n
is found, from n = -8,192 on, as the largest with 2^(2n - 1) at most the 2,400th power of the
ratio; both sides are multiplied by 2^16,385. -/
def pitchValue (rate period : Nat) (tuning : Int) : Nat :=
  let a := 16 * rate
  let b := 440 * period
  let m := searchLargest (fun m => decide (2 ^ (2 * m) * b ^ Config.twoOctaves ≤
    a ^ Config.twoOctaves * 2 ^ Config.centBias)) 14 0
  (saturate 0 12799 (6900 + ((m : Int) - 8192) + tuning)).toNat

/-- The whole analysis of a frame (R20 to R25). -/
def analyse (x : Analysis) : PitchRecord :=
  let samples := x.frame.map BitVec.toInt
  let h := headroomOf (peakOf samples)
  let q := x.params
  if q.silence < h then
    { stamp := x.stamp, voiced := false, silent := true, period := none, pitch := none,
      confidence := 0, headroom := h }
  else
    let shifted := samples.map (fun v => v * 2 ^ h)
    let ds := (List.range' q.tmin (q.tmax + 1 - q.tmin)).map (difference shifted)
    let ns := normalise ds 0 0
    let index := chooseLag (q.diffThreshold * 256) ns
    let held := ns.getD index 0
    let period := refinePeriod ds q.tmin index
    let confidence := confidenceOf held
    let voiced := decide (held < q.diffThreshold * 256 ∧ q.voicing ≤ confidence)
    { stamp := x.stamp, voiced := voiced, silent := false, period := some period,
      pitch := if voiced then some (pitchValue q.sampleRate period q.tuning) else none,
      confidence := confidence, headroom := h }

/-! ### The history (R26) -/

/-- A record enters the history as its newest member and NEW_RECORD is set (R26). -/
def Tracker.enter (t : Tracker) (r : PitchRecord) : Tracker :=
  { t with history := (r :: t.history).take Config.historySize, newRecord := true }

/-- The splice period: the newest voiced record's period in whole samples, an exact half up (R26). -/
def Tracker.splicePeriod (t : Tracker) : Option Nat :=
  (t.history.find? (·.voiced)).bind (fun r => r.period.map (fun p => (p + 8) / 16))

/-! ### The note decision (R27 to R29) -/

/-- What a note decision makes of the sung note. -/
inductive NoteOutcome where
  | kept
  | onset (old : Option Nat) (new : Nat)
  | quiet (old : Nat)
deriving DecidableEq, Repr

/-- The nearest note of a pitch value, limited to 127 (R27). -/
def nearestNote (pitch : Nat) : Nat := min 127 ((pitch + 50) / 100)

/-- The note decision on a voiced record's pitch value (R27, R28). -/
def Tracker.decideVoiced (t : Tracker) (g : General) (pitch : Nat) : Tracker × NoteOutcome :=
  match t.sung with
  | none =>
    ({ t with sung := some (nearestNote pitch), outside := 0, unvoiced := 0 },
      .onset none (nearestNote pitch))
  | some n =>
    if ((pitch : Int) - 100 * (n : Int)).natAbs ≤ 50 + g.hysteresis.toNat then
      ({ t with outside := 0, unvoiced := 0 }, .kept)
    else if t.outside + 1 < g.noteHold.toNat then
      ({ t with outside := t.outside + 1, unvoiced := 0 }, .kept)
    else if nearestNote pitch = n then ({ t with outside := 0, unvoiced := 0 }, .kept)
    else
      ({ t with sung := some (nearestNote pitch), outside := 0, unvoiced := 0 },
        .onset (some n) (nearestNote pitch))

/-- The note decision on an unvoiced or silent record (R29). -/
def Tracker.decideUnvoiced (t : Tracker) (g : General) : Tracker × NoteOutcome :=
  match t.sung with
  | none => ({ t with outside := 0, unvoiced := min 16 (t.unvoiced + 1) }, .kept)
  | some n =>
    if g.unvoicedHold.toNat ≤ min 16 (t.unvoiced + 1) then
      ({ t with sung := none, outside := 0, unvoiced := min 16 (t.unvoiced + 1) }, .quiet n)
    else ({ t with outside := 0, unvoiced := min 16 (t.unvoiced + 1) }, .kept)

/-- The note decision on a record (R27 to R29). -/
def Tracker.noteDecision (t : Tracker) (g : General) (r : PitchRecord) : Tracker × NoteOutcome :=
  if r.voiced then t.decideVoiced g (r.pitch.getD 0) else t.decideUnvoiced g

/-- The NOTE_CHANGE of a decision, stamped with the record's hop stamp (R30). -/
def noteChangeEvents (r : PitchRecord) (o : NoteOutcome) : List Event :=
  match o with
  | .kept => []
  | .onset old new =>
    [⟨.noteChange, 1, none, BitVec.ofNat 32 new, (noteField old).setWidth 32, r.stamp⟩]
  | .quiet old => [⟨.noteChange, 2, none, 255, BitVec.ofNat 32 old, r.stamp⟩]

end Sys2Proof.Machine
end

