-- ==== Sys2Proof/Machine/Voices.lean ====
section
/-! DEFINITION. The Voice Engine's records (04): glide and ratio, entry, the planner's claims, parking,
and what the setup commands make of a record. -/

namespace Sys2Proof.Machine

/-! ### Glide and ratio (R70) -/

/-- The ratio of a shift in 1/65,536: 2^(shift/1,200) times 65,536 to the nearest whole number, an
exact half up (R70). It is the largest r with (2r - 1)^1,200 at most 2^(shift + 1,200 * 17). -/
def ratioOf (shift : Int) : Nat :=
  searchLargest (fun r => decide ((2 * r - 1) ^ Config.octave ≤ 2 ^ (shift + Config.ratioBias).toNat))
    20 0

/-- The active voice setup of a voice. -/
def voiceSetup (s : State) (v : Fin 4) : VoiceSetup := s.setup.active.voices[v]

/-- A shift moved toward another by at most `limit` cents (R70). -/
def glideToward (current goal limit : Int) : Int :=
  if goal - current ≤ limit ∧ current - goal ≤ limit then goal
  else if current < goal then current + limit
  else current - limit

/-- A glide step of a record toward its target shift (R70). -/
def glideStep (glide : Nat) (r : VoiceRecord) : VoiceRecord :=
  match r.target with
  | none => r
  | some t =>
    if t.shift = r.current then r
    else
      { r with
        current := glideToward r.current t.shift glide
        ratio := ratioOf (glideToward r.current t.shift glide) }

/-! ### Entry (R63) -/

/-- Whether the entry test passes (R63): the fill is compared, not C (R8). -/
def entryPasses (s : State) (r : VoiceRecord) : Bool :=
  decide (r.state = .parked) && r.target.isSome &&
    decide (s.setup.active.general.lagCenter.toNat + 2 ≤ s.cap.fill)

/-- The read position LAG_CENTER behind C, fraction 0 (R63, R84). -/
def centrePosition (s : State) : Position :=
  (s.cap.c - s.setup.active.general.lagCenter.setWidth 32) ++ 0#16

/-- A voice enters (R63). -/
def enterVoice (s : State) (shift : Int) (r : VoiceRecord) : VoiceRecord :=
  { r with
    state := .entering
    fade := 0
    p := some (centrePosition s)
    xfade := none
    splicePending := false
    current := shift
    ratio := ratioOf shift }

/-- The entry test of a record (R63). -/
def entryTest (s : State) (r : VoiceRecord) : VoiceRecord :=
  match r.target with
  | none => r
  | some t => if entryPasses s r then enterVoice s t.shift r else r

/-- Every PARKED voice makes the entry test, after a captured write (R63). -/
def entryTests (s : State) : State :=
  [0, 1, 2, 3].foldl (fun s v => setVoice s v (entryTest s (voiceOf s v))) s

/-! ### Claims (R65 to R69) -/

/-- A target update taken by a record (R67). -/
def takeUpdate (s : State) (glide : Nat) (t : Target) (r : VoiceRecord) : VoiceRecord :=
  let r' := { r with
    targetChanged := r.targetChanged || decide (r.target.map (·.note) ≠ some t.note)
    target := some t }
  match r.state with
  | .silent => r'
  | .parked => entryTest s r'
  | .entering => glideStep glide r'
  | .sounding => glideStep glide r'
  | .leaving => if r.enable then glideStep glide { r' with state := .entering } else glideStep glide r'

/-- The target note and shift become none; TARGET_CHANGED is set if a note was held (R65, R68). -/
def dropTarget (r : VoiceRecord) : VoiceRecord :=
  { r with targetChanged := r.targetChanged || r.target.isSome, target := none }

/-- A withdrawal taken by a record (R68). -/
def takeWithdrawal (r : VoiceRecord) : VoiceRecord :=
  match r.state with
  | .entering => { dropTarget r with state := .leaving }
  | .sounding => { dropTarget r with state := .leaving }
  | .silent => dropTarget r
  | .parked => dropTarget r
  | .leaving => dropTarget r

/-- A shift update taken by a record (R69); one for a voice without a target cannot arrive and changes
nothing (notes/assumptions/22.md). -/
def takeShift (glide : Nat) (shift : Int) (r : VoiceRecord) : VoiceRecord :=
  match r.target with
  | none => r
  | some t =>
    match r.state with
    | .silent => { r with target := some { t with shift := shift } }
    | .parked => { r with target := some { t with shift := shift } }
    | .entering => glideStep glide { r with target := some { t with shift := shift } }
    | .sounding => glideStep glide { r with target := some { t with shift := shift } }
    | .leaving => glideStep glide { r with target := some { t with shift := shift } }

/-- An enable claim with the enable set taken by a record (R65). A SILENT voice becomes PARKED; then,
and for a LEAVING voice, the target is taken as a target update, or dropped
(notes/assumptions/14.md, 22.md). -/
def takeEnable (s : State) (glide : Nat) (target : Option Target) (r : VoiceRecord) : VoiceRecord :=
  let r' := { r with enable := true, state := if r.state = .silent then .parked else r.state }
  match target with
  | some t => takeUpdate s glide t r'
  | none => takeWithdrawal r'

/-- An enable claim with the enable clear taken by a record (R66). -/
def takeDisable (r : VoiceRecord) : VoiceRecord :=
  match r.state with
  | .silent => { r with enable := false }
  | .parked => { r with enable := false, state := .silent }
  | .entering => { r with enable := false, state := .leaving }
  | .sounding => { r with enable := false, state := .leaving }
  | .leaving => { r with enable := false }

/-- A claim taken whole by a record (section 4.4). -/
def claimOn (s : State) (glide : Nat) (c : Claim) (r : VoiceRecord) : VoiceRecord :=
  match c with
  | .enable t => takeEnable s glide t r
  | .disable => takeDisable r
  | .update t => takeUpdate s glide t r
  | .withdraw => takeWithdrawal r
  | .shift x => takeShift glide x r

/-- A claim taken at voice `v`'s record. -/
def takeClaim (s : State) (v : Fin 4) (c : Claim) : State :=
  setVoice s v (claimOn s (voiceSetup s v).glide.toNat c (voiceOf s v))

/-- Whether a tap read holds a voice's record: its own voice, or all four for a mix (R76). -/
def TapRead.holds (r : TapRead) (v : Fin 4) : Bool :=
  decide (8 ≤ r.offset ∨ r.offset % 4 = v.val)

/-- The planner hands a claim: it waits where a tap read in flight holds the record (R76). -/
def handClaim (s : State) (v : Fin 4) (c : Claim) : State :=
  match s.bus.cycle with
  | some (.tap r) =>
    if r.holds v then
      { s with bus := { s.bus with cycle := some (.tap { r with claims := r.claims ++ [(v, c)] }) } }
    else takeClaim s v c
  | _ => takeClaim s v c

/-! ### Parking and commands (R75 to R79) -/

/-- A record without read positions, crossfade, pending splice and fade (R62). -/
def dropPositions (r : VoiceRecord) : VoiceRecord :=
  { r with fade := 0, p := none, xfade := none, splicePending := false }

/-- A capture restart parks a record (R75). -/
def parkRecord (r : VoiceRecord) : VoiceRecord :=
  match r.state with
  | .silent => r
  | .parked => r
  | .entering => { dropPositions r with state := .parked }
  | .sounding => { dropPositions r with state := .parked }
  | .leaving => { dropPositions r with state := if r.enable then .parked else .silent }

/-- Every voice rewritten in index order. -/
def mapVoices (s : State) (f : Fin 4 → VoiceRecord → VoiceRecord) : State :=
  [0, 1, 2, 3].foldl (fun s v => setVoice s v (f v (voiceOf s v))) s

/-- A capture restart parks the voices (R75). -/
def parkVoices (s : State) : State := mapVoices s (fun _ r => parkRecord r)

/-- A record as START and RESTART set it; the sticky flags are cleared by START alone (R78). -/
def startRecord (enabled clearFlags : Bool) (r : VoiceRecord) : VoiceRecord where
  state := if enabled then .parked else .silent
  enable := enabled
  fade := 0
  p := none
  xfade := none
  splicePending := false
  target := none
  current := 0
  ratio := Config.unityRatio
  clipped := !clearFlags && r.clipped
  targetChanged := !clearFlags && r.targetChanged

/-- The voices set by START (`clearFlags`) or RESTART (R78). -/
def startVoices (s : State) (clearFlags : Bool) : State :=
  mapVoices s (fun v r => startRecord (voiceSetup s v).startEnabled clearFlags r)

/-- STOP makes every voice SILENT at once (R79). -/
def stopVoices (s : State) : State := mapVoices s (fun _ r => startRecord false false r)

/-- A fade level brought to a new XF (R77). -/
def fitFade (xf : Nat) (r : VoiceRecord) : VoiceRecord :=
  match r.state with
  | .silent => r
  | .parked => r
  | .sounding => { r with fade := xf }
  | .entering =>
    { r with
      fade := min r.fade xf
      state := if xf ≤ r.fade then .sounding else .entering }
  | .leaving => { r with fade := min r.fade xf }

end Sys2Proof.Machine
end

