-- ==== Sys2Proof/Machine/HarmonyPlanner.lean ====
section
/-! DEFINITION. The Harmony Planner (03): start targets, the range fold, the unison check, target
shifts, re-plans and shift updates. -/

namespace Sys2Proof.Machine

/-! ### Scale notes and chord tones (R38) -/

/-- Whether a whole number is a note of a mask set on a root (R38). -/
def isTone (mask : BitVec 12) (root : Nat) (m : Int) : Bool :=
  mask.getLsbD ((m - root) % 12).toNat

/-- The twelve semitone distances 1 to 12. -/
def semitones : List Nat := [1, 2, 3, 4, 5, 6, 7, 8, 9, 10, 11, 12]

/-- The next note of the set above a whole number (itself where the set is empty, which validation
excludes, R38). -/
def nextAbove (mask : BitVec 12) (root : Nat) (m : Int) : Int :=
  match semitones.find? (fun j => isTone mask root (m + j)) with
  | some j => m + j
  | none => m

/-- The next note of the set below a whole number. -/
def nextBelow (mask : BitVec 12) (root : Nat) (m : Int) : Int :=
  match semitones.find? (fun j => isTone mask root (m - j)) with
  | some j => m - j
  | none => m

/-- `steps` steps from note to note of the set, up for a positive number, down for a negative one. -/
def walk (mask : BitVec 12) (root : Nat) (steps : Int) (m : Int) : Int :=
  if 0 ≤ steps then (nextAbove mask root)^[steps.toNat] m
  else (nextBelow mask root)^[(-steps).toNat] m

/-- The highest note of the set at or below a whole number (R43). -/
def atOrBelow (mask : BitVec 12) (root : Nat) (m : Int) : Int :=
  if isTone mask root m then m else nextBelow mask root m

/-- The note of the set nearest to a whole number, the lower of two equally near (R44). -/
def nearestTone (mask : BitVec 12) (root : Nat) (m : Int) : Int :=
  if isTone mask root m then m
  else if m - nextBelow mask root m ≤ nextAbove mask root m - m then nextBelow mask root m
  else nextAbove mask root m

/-! ### The sets in force -/

/-- The mask of a scale of the active setup. -/
def scaleMask (s : State) (i : Nat) : BitVec 12 := s.setup.active.scales[i]?.getD 0

/-- The mask of a shape of the active setup; 0 is undefined. -/
def shapeMask (s : State) (i : Nat) : BitVec 12 := s.setup.active.shapes[i]?.getD 0

/-- The chord as every rule uses it: none while its shape is undefined (R38). -/
def usableChord (s : State) : Option Chord :=
  s.pln.chord.bind (fun c => if shapeMask s c.shape = 0 then none else some c)

/-- A voice's plan. -/
def planOf (s : State) (v : Fin 4) : VoicePlan := s.pln.voices[v]

/-- A voice's plan replaced. -/
def setPlan (s : State) (v : Fin 4) (p : VoicePlan) : State :=
  { s with pln := { s.pln with voices := s.pln.voices.set v p } }

/-! ### Start targets (R43 to R45, R53) -/

/-- The start target of SCALE mode with a parameter (R43). -/
def scaleTarget (s : State) (parameter : Int) (sung : Nat) : Int :=
  walk (scaleMask s s.pln.key.scale) s.pln.key.root parameter
    (atOrBelow (scaleMask s s.pln.key.scale) s.pln.key.root sung)

/-- The start target of CHORD mode on a usable chord (R44). -/
def chordTarget (s : State) (c : Chord) (parameter : Int) (sung : Nat) : Int :=
  if parameter = 0 then nearestTone (shapeMask s c.shape) c.root sung
  else walk (shapeMask s c.shape) c.root parameter sung

/-- The start target of a live mode; a voice that needs a sung note and has none keeps its planned
note (R43 to R45). -/
def modeTarget (s : State) (live : LiveMode) (planned : Option Nat) : Option Int :=
  match live.mode, s.trk.sung with
  | .pedal, _ => some live.parameter
  | .scale, some n => some (scaleTarget s live.parameter n)
  | .fixed, some n => some (n + live.parameter)
  | .chord, some n =>
    match usableChord s with
    | some c => some (chordTarget s c live.parameter n)
    | none => some (scaleTarget s live.fallback n)
  | .scale, none => planned.map Int.ofNat
  | .fixed, none => planned.map Int.ofNat
  | .chord, none => planned.map Int.ofNat

/-- The start target of an enabled voice: during hold the frozen target, unless the voice is newly
enabled or has none (R53). -/
def startTarget (s : State) (p : VoicePlan) : Option Int :=
  if s.pln.hold && !p.newlyEnabled && p.note.isSome then p.note.map Int.ofNat
  else modeTarget s p.live p.note

/-! ### Range fold and unison check (R46, R47) -/

/-- The range fold: steps 1 and 2 in closed form, none where step 3 fails (R46). -/
def rangeFold (low high t : Int) : Option Int :=
  let down := if high < t then high - (high - t) % 12 else t
  let up := if down < low then low + (down - low) % 12 else down
  if high < up then none else some up

/-- The move of the unison check (R47). -/
def unisonMove (s : State) (live : LiveMode) (t : Int) : Int :=
  let along (mask : BitVec 12) (root : Nat) (direction : Int) : Int :=
    if 0 ≤ direction then nextAbove mask root t else nextBelow mask root t
  match live.mode with
  | .scale => along (scaleMask s s.pln.key.scale) s.pln.key.root live.parameter
  | .chord =>
    match usableChord s with
    | some c => along (shapeMask s c.shape) c.root live.parameter
    | none => along (scaleMask s s.pln.key.scale) s.pln.key.root live.fallback
  | .fixed => t
  | .pedal => t

/-- What the fold and the unison check make of a target: a note, or the unfolded value that failed. -/
inductive FoldResult where
  | note (t : Int)
  | failed (unfolded : Int)
deriving DecidableEq, Repr

/-- The range fold with the value it fails on (R46). -/
def foldResult (low high t : Int) : FoldResult :=
  match rangeFold low high t with
  | some u => .note u
  | none => .failed t

/-- Up to `moves` moves of the unison check off the taken notes, each followed by the fold (R47). -/
def unisonCheck (s : State) (live : LiveMode) (low high : Int) (taken : List Int) (moves : Nat)
    (r : FoldResult) : FoldResult :=
  match moves, r with
  | _, .failed u => .failed u
  | 0, .note t => .note t
  | n + 1, .note t =>
    if t ∈ taken then
      unisonCheck s live low high taken n (foldResult low high (unisonMove s live t))
    else .note t

/-! ### Target shifts (R55) -/

/-- The latest record (R26). -/
def latestRecord (s : State) : Option PitchRecord := s.trk.history.head?

/-- The pitch value a voice with CORRECT is aimed from: the latest record's, where it is voiced. -/
def correctPitch (s : State) (v : Fin 4) : Option Nat :=
  if (voiceSetup s v).correct then
    (latestRecord s).bind (fun r => if r.voiced then some (r.pitch.getD 0) else none)
  else none

/-- The target shift of a note, before the limit: the first case of R55 that applies. -/
def targetShift (s : State) (v : Fin 4) (t : Nat) (before : VoicePlan) : Option Int :=
  match correctPitch s v, s.trk.sung with
  | some pitch, _ => some (100 * (t : Int) - pitch)
  | none, some n => some (100 * ((t : Int) - n))
  | none, none => if before.note = some t then before.shift else none

/-- Whether a shift lies outside the limit (R55). -/
def beyondLimit (x : Int) : Bool := decide (x < -Config.shiftLimit ∨ Config.shiftLimit < x)

/-- The second value of a range failure: the sung note, or 255 (R46). -/
def sungWord (s : State) : Word := (noteField s.trk.sung).setWidth 32

/-- A voice's plan without a target. -/
def VoicePlan.lost (p : VoicePlan) : VoicePlan := { p with note := none, shift := none }

/-- The plan with its target note's shift formed, and the shift that is beyond the limit, if it is
(R55). -/
def formShift (s : State) (v : Fin 4) (t : Nat) (p : VoicePlan) : VoicePlan × Option Int :=
  match targetShift s v t p with
  | none => ({ p with note := some t, shift := none }, none)
  | some x => if beyondLimit x then (p.lost, some x) else ({ p with note := some t, shift := some x }, none)

/-- The VOICE_RANGE of a lost shift (R55). -/
def shiftEvent (s : State) (v : Fin 4) (t : Nat) (x : Int) : Event :=
  eventNow s .voiceRange 2 (some v) (BitVec.ofInt 32 x) (BitVec.ofNat 32 t)

/-- The VOICE_RANGE of a failed fold (R46). -/
def rangeEvent (s : State) (v : Fin 4) (unfolded : Int) : Event :=
  eventNow s .voiceRange 1 (some v) (BitVec.ofInt 32 unfolded) (sungWord s)

/-! ### Planning (R48, R49) -/

/-- The target notes of the voices in a list that are enabled and have one (R47). -/
def notesOf (s : State) (vs : List (Fin 4)) : List Int :=
  vs.filterMap (fun v => if (planOf s v).enable then (planOf s v).note.map Int.ofNat else none)

/-- The note of voice `v`'s plan against the given voices: steps 1 and 2 of R48. -/
def planNote (s : State) (v : Fin 4) (others : List (Fin 4)) : Option FoldResult :=
  let p := planOf s v
  let low : Int := (voiceSetup s v).lowNote.toNat
  let high : Int := (voiceSetup s v).highNote.toNat
  if p.enable then
    (startTarget s p).map (fun t =>
      if (voiceSetup s v).avoid then
        unisonCheck s p.live low high ((s.trk.sung.map Int.ofNat).toList ++ notesOf s others) 3
          (foldResult low high t)
      else foldResult low high t)
  else none

/-- Voice `v` planned against the given voices (R48 steps 1 to 3), with its VOICE_RANGE. -/
def planVoice (s : State) (v : Fin 4) (others : List (Fin 4)) : State :=
  let p := planOf s v
  match planNote s v others with
  | none => setPlan s v p.lost
  | some (.failed u) => raiseEvent (setPlan s v p.lost) (rangeEvent s v u)
  | some (.note t) =>
    match formShift s v t.toNat p with
    | (p', none) => setPlan s v p'
    | (p', some x) => raiseEvent (setPlan s v p') (shiftEvent s v t.toNat x)

/-- The target a plan hands to the Voice Engine: present when note and shift both are. -/
def VoicePlan.target (p : VoicePlan) : Option Target :=
  match p.note, p.shift with
  | some n, some x => some ⟨n, x⟩
  | some _, none => none
  | none, _ => none

/-- The plan once its result has been handed. -/
def VoicePlan.afterHanding (p : VoicePlan) : VoicePlan :=
  { p with handed := p.target.map (·.note), newlyEnabled := false }

/-- A plan's result handed to the Voice Engine: an enable claim for a newly enabled voice, else an
update or a withdrawal where the handed state has changed (R40, R48). -/
def handVoice (s : State) (v : Fin 4) : State :=
  let p := planOf s v
  let s' := setPlan s v p.afterHanding
  if p.newlyEnabled then handClaim s' v (.enable p.target)
  else if p.target.map (·.note) = p.handed then s'
  else
    match p.target with
    | some t => handClaim s' v (.update t)
    | none => handClaim s' v .withdraw

/-- The voices of lower index. -/
def lowerVoices (v : Fin 4) : List (Fin 4) := [0, 1, 2, 3].filter (fun w => decide (w < v))

/-- The other voices. -/
def otherVoices (v : Fin 4) : List (Fin 4) := [0, 1, 2, 3].filter (fun w => decide (w ≠ v))

/-- A re-plan of all voices (R48): all planned in index order, then handed in index order. -/
def replanAll (s : State) : State :=
  [0, 1, 2, 3].foldl handVoice ([0, 1, 2, 3].foldl (fun s v => planVoice s v (lowerVoices v)) s)

/-- A re-plan of one voice (R49). -/
def replanOne (s : State) (v : Fin 4) : State := handVoice (planVoice s v (otherVoices v)) v

/-- The shift update of one voice at a completed record (R56). -/
def shiftUpdate (s : State) (v : Fin 4) : State :=
  let p := planOf s v
  match p.note with
  | none => s
  | some t =>
    match formShift s v t p with
    | (p', some x) =>
      handClaim (raiseEvent (setPlan s v p'.afterHanding) (shiftEvent s v t x)) v .withdraw
    | (p', none) =>
      match p.shift, p'.shift with
      | some _, some x => handClaim (setPlan s v p'.afterHanding) v (.shift x)
      | none, some x => handClaim (setPlan s v p'.afterHanding) v (.update ⟨t, x⟩)
      | _, none => setPlan s v p'

/-- The shift updates of a completed record, in index order (R56). -/
def shiftUpdates (s : State) : State := [0, 1, 2, 3].foldl shiftUpdate s

/-! ### Enables and commands (R40, R41, R58 to R60) -/

/-- The live mode a voice setup gives (R39). -/
def liveModeOf (vs : VoiceSetup) : LiveMode :=
  ⟨(Mode.ofCode vs.mode.toNat).getD .scale, vs.parameter.toInt, vs.fallback.toInt⟩

/-- Every plan rewritten in index order. -/
def mapPlans (s : State) (f : Fin 4 → VoicePlan → VoicePlan) : State :=
  [0, 1, 2, 3].foldl (fun s v => setPlan s v (f v (planOf s v))) s

/-- A voice switched on: marked newly enabled where it was off (R40). -/
def enableVoice (s : State) (v : Fin 4) : State :=
  if (planOf s v).enable then s
  else setPlan s v { planOf s v with enable := true, newlyEnabled := true }

/-- A voice switched off; one still marked newly enabled is unmarked and hands no claim (R41). -/
def disableVoice (s : State) (v : Fin 4) : State :=
  let p := planOf s v
  if p.enable then
    let s' := setPlan s v { p with enable := false, newlyEnabled := false }
    if p.newlyEnabled then s' else handClaim s' v .disable
  else s

/-- The voices a mask names, in index order. -/
def maskVoices (mask : BitVec 4) : List (Fin 4) := [0, 1, 2, 3].filter (fun v => mask.getLsbD v.val)

/-- A voice's plan as START and RESTART set it (R58). -/
def startPlan (vs : VoiceSetup) : VoicePlan where
  enable := vs.startEnabled
  newlyEnabled := false
  live := liveModeOf vs
  deferredMode := none
  note := none
  shift := none
  handed := none

/-- The planner set by START and RESTART, before its re-plan (R58). -/
def startPlanner (s : State) : State :=
  mapPlans
    { s with pln := { s.pln with
        key := ⟨s.setup.active.general.keyRoot.toNat, s.setup.active.general.keyScale.toNat⟩
        chord := none
        hold := false
        deferredKey := none
        deferredChord := none } }
    (fun v _ => startPlan (voiceSetup s v))

/-- An APPLY copies the live modes and discards the deferred ones (R59). -/
def applyModes (s : State) : State :=
  mapPlans s (fun v p => { p with live := liveModeOf (voiceSetup s v), deferredMode := none })

/-- STOP clears the enables and the planned targets (R60); the Voice Engine's targets go with them
(R79). -/
def stopPlanner (s : State) : State :=
  mapPlans s (fun _ p =>
    { p with enable := false, newlyEnabled := false, note := none, shift := none, handed := none })

end Sys2Proof.Machine
end

