-- ==== Sys2Proof/Machine/CueScheduler.lean ====
section
/-! DEFINITION. The Cue Scheduler (07, sections 7.5 and 7.6): executing a cue at its owner, the two
lists, acceptance, count advances and rebases. -/

namespace Sys2Proof.Machine

/-! ### Executing a cue (R37 to R54, R128) -/

/-- A re-plan of all voices, but for a cue of the ONSET list, which leaves it to the onset (R128). -/
def replanUnless (fromOnset : Bool) (s : State) : State := if fromOnset then s else replanAll s

/-- A named chord as the shape table stands: none where the shape is undefined (R37). -/
def checkedChord (s : State) (c : Option Chord) : Option Chord :=
  c.bind (fun c => if shapeMask s c.shape = 0 then none else some c)

/-- KEY (R37, R52). -/
def executeKey (fromOnset : Bool) (k : Key) (s : State) : State :=
  if s.pln.hold then { s with pln := { s.pln with deferredKey := some k } }
  else replanUnless fromOnset { s with pln := { s.pln with key := k } }

/-- CHORD (R37, R52). -/
def executeChord (fromOnset : Bool) (c : Option Chord) (s : State) : State :=
  if s.pln.hold then { s with pln := { s.pln with deferredChord := some c } }
  else replanUnless fromOnset { s with pln := { s.pln with chord := checkedChord s c } }

/-- VOICE_ON (R40). -/
def executeVoiceOn (fromOnset : Bool) (mask : BitVec 4) (s : State) : State :=
  replanUnless fromOnset ((maskVoices mask).foldl enableVoice s)

/-- VOICE_OFF (R41): no re-plan. -/
def executeVoiceOff (mask : BitVec 4) (s : State) : State := (maskVoices mask).foldl disableVoice s

/-- VOICE_MODE (R42, R52): the fallback degrees stay (R39). -/
def executeVoiceMode (fromOnset : Bool) (v : Fin 4) (m : Mode) (parameter : Int) (s : State) :
    State :=
  let p := planOf s v
  if s.pln.hold then setPlan s v { p with deferredMode := some (m, parameter) }
  else
    let s' := setPlan s v { p with live := { p.live with mode := m, parameter := parameter } }
    if fromOnset then s' else replanOne s' v

/-- HOLD (R51). -/
def executeHold (s : State) : State := { s with pln := { s.pln with hold := true } }

/-- A deferred mode becomes the live mode and parameter (R54). -/
def VoicePlan.applyDeferred (p : VoicePlan) : VoicePlan :=
  match p.deferredMode with
  | some (m, x) => { p with live := { p.live with mode := m, parameter := x }, deferredMode := none }
  | none => p

/-- RELEASE (R54): deferred key, chord and modes applied, the flag cleared. -/
def executeRelease (fromOnset : Bool) (s : State) : State :=
  let key := s.pln.deferredKey.getD s.pln.key
  let chord :=
    match s.pln.deferredChord with
    | some c => checkedChord s c
    | none => s.pln.chord
  replanUnless fromOnset
    (mapPlans
      { s with pln := { s.pln with
          key := key, chord := chord, hold := false, deferredKey := none, deferredChord := none } }
      (fun _ p => p.applyDeferred))

/-- A cue that may stand in a list, executed whole at its owner (R128). -/
def executeMusical (fromOnset : Bool) (cue : MusicalCue) (s : State) : State :=
  match cue with
  | .chord c => executeChord fromOnset c s
  | .key k => executeKey fromOnset k s
  | .voiceOn mask => executeVoiceOn fromOnset mask s
  | .voiceOff mask => executeVoiceOff mask s
  | .voiceMode v m x => executeVoiceMode fromOnset v m x s
  | .hold => executeHold s
  | .release => executeRelease fromOnset s

/-! ### Distances and the lists (00_scope section 5.6, R129) -/

/-- The forward distance of a stamp from a count (section 5.6). -/
def distance (count stamp : Word) : Nat := (stamp - count).toNat

/-- Whether a stamp is due: distance 0 or at least 2^31 (section 5.6). -/
def isDue (count stamp : Word) : Bool :=
  decide (distance count stamp = 0 ∨ 2147483648 ≤ distance count stamp)

/-- The lateness of a due stamp: 2^32 minus its distance, 0 for a distance of 0 (section 5.6, R133). -/
def lateness (count stamp : Word) : Word := count - stamp

/-- An entry joins the AT list after every entry of a distance not greater (R130). -/
def insertAt (count : Word) (e : AtEntry) (list : List AtEntry) : List AtEntry :=
  match list with
  | [] => [e]
  | x :: rest =>
    if distance count x.stamp ≤ distance count e.stamp then x :: insertAt count e rest
    else e :: x :: rest

/-- Entries sorted by distance, equal ones in their old order (R133). -/
def sortAt (count : Word) (list : List AtEntry) : List AtEntry :=
  list.foldl (fun sorted e => insertAt count e sorted) []

/-- Cues in the two lists together (R129). -/
def listedCues (s : State) : Nat := s.csc.atList.length + s.csc.onsetList.length

/-- The AT list replaced. -/
def setAtList (s : State) (list : List AtEntry) : State :=
  { s with csc := { s.csc with atList := list } }

/-- The head of the AT list executed and removed while it is due (R131). -/
def executeDue (list : List AtEntry) (s : State) : State :=
  match list with
  | [] => setAtList s []
  | e :: rest =>
    if isDue s.cap.count e.stamp then executeDue rest (executeMusical false e.cue (setAtList s rest))
    else setAtList s (e :: rest)

/-- An advance of the sample count, handed to the scheduler as one advance (R9, R131). -/
def advanceCount (s : State) (n : Nat) : State :=
  executeDue s.csc.atList { s with cap := { s.cap with count := s.cap.count + BitVec.ofNat 32 n } }

/-- The ONSET list executed in arrival order and emptied (R132). -/
def executeOnsetList (list : List MusicalCue) (s : State) : State :=
  match list with
  | [] => { s with csc := { s.csc with onsetList := [] } }
  | cue :: rest =>
    executeOnsetList rest (executeMusical true cue { s with csc := { s.csc with onsetList := rest } })

/-- The entries due against the new count, each removed and executed with its CUE_LATE (R133
step 1). -/
def executeLate (list : List AtEntry) (s : State) : State :=
  match list with
  | [] => s
  | e :: rest =>
    if isDue s.cap.count e.stamp then
      executeLate rest (executeMusical false e.cue
        (raiseEvent s (eventNow s .cueLate 2 none (lateness s.cap.count e.stamp) e.stamp)))
    else executeLate rest s

/-- TIMEBASE: the count is set, then the AT list rebased (R10, R133). -/
def executeTimebase (count : Word) (s : State) : State :=
  let kept := s.csc.atList.filter (fun e => !isDue count e.stamp)
  executeLate s.csc.atList
    (setAtList { s with cap := { s.cap with count := count } } (sortAt count kept))

/-- Both lists emptied without executing their cues (R134). -/
def emptyLists (s : State) : State := { s with csc := ⟨[], []⟩ }

/-! ### Acceptance (R127, R130) -/

/-- A CUE_OVERFLOW (R137). -/
def overflowEvent (s : State) (cue : MusicalCue) (due : Byte) (second : Word) : Event :=
  eventNow s .cueOverflow due none (cue.code.setWidth 32) second

/-- A listable cue accepted in RUNNING, by its due kind (R130). -/
def scheduleMusical (s : State) (cue : MusicalCue) (due : Due) : State :=
  match due with
  | .now => executeMusical false cue s
  | .atStamp stamp =>
    if isDue s.cap.count stamp then
      if stamp = s.cap.count then executeMusical false cue s
      else executeMusical false cue
        (raiseEvent s (eventNow s .cueLate 1 none (lateness s.cap.count stamp) stamp))
    else if listedCues s < Config.cueListSize then
      setAtList s (insertAt s.cap.count ⟨cue, stamp⟩ s.csc.atList)
    else raiseEvent s (overflowEvent s cue 1 stamp)
  | .onset =>
    if listedCues s < Config.cueListSize then
      { s with csc := { s.csc with onsetList := s.csc.onsetList ++ [cue] } }
    else raiseEvent s (overflowEvent s cue 2 0)

/-- A cue accepted in RUNNING. TIMEBASE and CLEAR reach the scheduler due NOW only (R126). -/
def scheduleCue (s : State) (cue : Cue) (due : Due) : State :=
  match cue with
  | .musical m => scheduleMusical s m due
  | .timebase count => executeTimebase count s
  | .clear => emptyLists s

/-- The stamp of a due kind, 0 where it has none (R137). -/
def dueStamp (due : Due) : Word :=
  match due with
  | .now => 0
  | .atStamp stamp => stamp
  | .onset => 0

/-- A cue accepted by the receiver (R127): taken in RUNNING, dropped in HALTED. -/
def acceptCue (s : State) (cue : Cue) (due : Due) : State :=
  match s.setup.engine with
  | .running => scheduleCue s cue due
  | .halted =>
    raiseEvent s (eventNow s .cueDropped (dueCode due) none (cue.code.setWidth 32) (dueStamp due))
  | .idle => s

end Sys2Proof.Machine
end

