-- ==== Sys2Proof/Machine/AnalysisCompletion.lean ====
section
/-! DEFINITION. The completion of an analysis and what it hands on (R18, R31). -/

namespace Sys2Proof.Machine

/-- What follows a note decision (R31 steps 3 and 4): at an onset the ONSET list, then the re-plan; at a
change to none the re-plan alone. -/
def handOutcome (s : State) (o : NoteOutcome) : State :=
  match o with
  | .kept => s
  | .onset _ _ => replanAll (executeOnsetList s.csc.onsetList s)
  | .quiet _ => replanAll s

/-- A record enters the history, with its note decision and its hand-ons, in the order of R31. -/
def enterRecord (s : State) (r : PitchRecord) : State :=
  let decided := (s.trk.enter r).noteDecision s.setup.active.general r
  shiftUpdates (handOutcome
    (raiseEvents { s with trk := decided.1 } (noteChangeEvents r decided.2)) decided.2)

/-- The analysis in flight ends. -/
def endAnalysis (s : State) : State := { s with trk := { s.trk with inFlight := none } }

/-- An analysis completes: its result is discarded where its generation tag is stale (R18). -/
def completeAnalysis (s : State) (x : Analysis) : State :=
  if x.generation = s.trk.generation then enterRecord (endAnalysis s) (analyse x) else endAnalysis s

/-- ANALYSIS_COMPLETION (R18 to R31); without an analysis in flight there is none to complete
(notes/assumptions/7.md). -/
def execAnalysisCompletion (s : State) : Host.Outcome State Fault Refusal :=
  let s := beginStep s
  match s.trk.inFlight with
  | none => .next s
  | some x => .next (completeAnalysis s x)

end Sys2Proof.Machine
end

