-- ==== Sys2Proof/Machine/CueReceiver.lean ====
section
/-! DEFINITION. The Cue Receiver (07, sections 7.1 to 7.4): characters, the assembly of a message, its
checks, and the link's failures. -/

namespace Sys2Proof.Machine

/-! ### Receiver state -/

/-- The receiver becomes ASLEEP: the buffer is emptied and the timer stopped (R120, R122). -/
def fallAsleep (s : State) : State :=
  { s with crx := { s.crx with state := .asleep, buffer := [], timer := false } }

/-- What a fall of the line makes of the receiver: seen in ASLEEP it brings the active divisor into force
(R117), in AWAKE it stops the character timer (R122). -/
def Receiver.fall (r : Receiver) (active : BitVec 12) : Receiver :=
  match r.state with
  | .off => { r with lineLow := true }
  | .asleep => { r with lineLow := true, divisor := active }
  | .awake => { r with lineLow := true, timer := false }
  | .inBreak => { r with lineLow := true }

/-- The line falls, unless it is low already: a character, a framing error and a break each have one fall
(R116, R125). -/
def seeFall (s : State) : State :=
  if s.crx.lineLow then s
  else { s with crx := s.crx.fall s.setup.active.general.divisor }

/-- The line is high again. -/
def lineRises (s : State) : State := { s with crx := { s.crx with lineLow := false } }

/-- The fall was noise: the character timer measures on as though it had not come (R116, R122). -/
def fallWasNoise (s : State) : State :=
  { s with crx := { s.crx with
      lineLow := false
      timer := s.crx.timer || decide (s.crx.state = .awake) } }

/-- Characters in the assembly buffer, as an event's value. -/
def bufferCount (s : State) : Word := BitVec.ofNat 32 s.crx.buffer.length

/-- The detail of LINK_BAD_CHAR and LINK_BREAK: 1 ASLEEP, 2 AWAKE (section 11.6). -/
def receiverDetail (s : State) : Byte := if s.crx.state = .awake then 2 else 1

/-- Whether an address character names this part: its station, its group or all stations (R119). -/
def addressMatches (s : State) (value : Byte) : Bool :=
  decide ((s.crx.station.toNat ≤ 29 ∧ value.toNat = s.crx.station.toNat) ∨
    (s.setup.active.general.group.toNat ≤ 7 ∧
      value.toNat = 32 + s.setup.active.general.group.toNat) ∨
    value.toNat = 255)

/-- An address character compared in ASLEEP (R119). -/
def compareAddress (s : State) (value : Byte) : State :=
  if addressMatches s value then
    { s with crx := { s.crx with state := .awake, buffer := [], timer := true } }
  else s

/-! ### The body check (R126) -/

/-- Why a body fails: detail code, the character that failed, its position counting L as 1 (R126,
R136). -/
structure BodyFault where
  detail : Byte
  value : Byte
  position : Nat
deriving DecidableEq, Repr

/-- Payload sizes by kind code (R126); none for an unknown kind. -/
def payloadSize (kind : Byte) : Option Nat :=
  match kind.toNat with
  | 1 => some 2
  | 2 => some 2
  | 3 => some 1
  | 4 => some 1
  | 5 => some 3
  | 6 => some 0
  | 7 => some 0
  | 8 => some 4
  | 9 => some 0
  | _ => none

/-- The due kind of a due code, its stamp from the characters after it. -/
def dueOf (code : Byte) (rest : List Byte) : Option Due :=
  match code.toNat with
  | 0 => some .now
  | 1 => some (.atStamp (charsWord rest))
  | 2 => some .onset
  | _ => none

/-- The payload characters of a body after kind and due. -/
def payloadOf (due : Due) (rest : List Byte) : List Byte :=
  match due with
  | .now => rest
  | .atStamp _ => rest.drop 4
  | .onset => rest

/-- The number of stamp characters of a due kind. -/
def stampSize (due : Due) : Nat :=
  match due with
  | .now => 0
  | .atStamp _ => 4
  | .onset => 0

/-- The first payload field out of its range, with its place in the payload (R126, check 5). -/
def payloadFault (kind : Byte) (p : List Byte) : Option (Byte × Nat) :=
  let c0 := p.getD 0 0
  let c1 := p.getD 1 0
  let c2 := p.getD 2 0
  match kind.toNat with
  | 1 =>
    if 11 < c0.toNat then some (c0, 0)
    else if 15 < c1.toNat ∧ c1.toNat ≠ 255 then some (c1, 1)
    else none
  | 2 => if 11 < c0.toNat then some (c0, 0) else if 7 < c1.toNat then some (c1, 1) else none
  | 3 => if 1 ≤ c0.toNat ∧ c0.toNat ≤ 15 then none else some (c0, 0)
  | 4 => if 1 ≤ c0.toNat ∧ c0.toNat ≤ 15 then none else some (c0, 0)
  | 5 =>
    if 3 < c0.toNat then some (c0, 0)
    else
      match Mode.ofCode c1.toNat with
      | none => some (c1, 1)
      | some m => if m.inRange c2.toInt then none else some (c2, 2)
  | _ => none

/-- The cue of a kind code and its payload characters, in payload order (R126, R128). -/
def cueOf (kind : Byte) (p : List Byte) : Option Cue :=
  let c0 := p.getD 0 0
  let c1 := p.getD 1 0
  match kind.toNat with
  | 1 => some (.musical (.chord (if c1.toNat = 255 then none else some ⟨c0.toNat, c1.toNat⟩)))
  | 2 => some (.musical (.key ⟨c0.toNat, c1.toNat⟩))
  | 3 => some (.musical (.voiceOn (c0.setWidth 4)))
  | 4 => some (.musical (.voiceOff (c0.setWidth 4)))
  | 5 => some (.musical (.voiceMode (Fin.ofNat 4 c0.toNat) ((Mode.ofCode c1.toNat).getD .scale)
      (p.getD 2 0).toInt))
  | 6 => some (.musical .hold)
  | 7 => some (.musical .release)
  | 8 => some (.timebase (charsWord p))
  | 9 => some .clear
  | _ => none

/-- The payload checks and the shape check, and the cue that passes them (R126, checks 5 and 6). -/
def checkPayload (s : State) (kind : Byte) (due : Due) (payload : List Byte) :
    Except BodyFault (Cue × Due) :=
  let first := 4 + stampSize due
  match payloadFault kind payload with
  | some (c, i) => .error ⟨5, c, first + i⟩
  | none =>
    if kind = 1 ∧ (payload.getD 1 0).toNat ≤ 15 ∧ shapeMask s (payload.getD 1 0).toNat = 0 then
      .error ⟨6, payload.getD 1 0, first + 1⟩
    else
      match cueOf kind payload with
      | some cue => .ok (cue, due)
      | none => .error ⟨2, kind, 2⟩

/-- The body check, in the order of R126: a fault, or the cue and its due. -/
def checkBody (s : State) (length : Byte) (body : List Byte) : Except BodyFault (Cue × Due) :=
  let kind := body.getD 0 0
  let code := body.getD 1 0
  match payloadSize kind with
  | none => .error ⟨2, kind, 2⟩
  | some size =>
    match dueOf code (body.drop 2) with
    | none => .error ⟨3, code, 3⟩
    | some due =>
      if length.toNat ≠ 2 + stampSize due + size then .error ⟨1, length, 1⟩
      else if (kind = 8 ∨ kind = 9) ∧ due ≠ .now then .error ⟨4, kind, 2⟩
      else checkPayload s kind due (payloadOf due (body.drop 2))

/-! ### Assembling a message (R120, R121) -/

/-- LINK_BAD_CUE (R136). -/
def badCueEvent (s : State) (f : BodyFault) : Event :=
  eventNow s .linkBadCue f.detail none (f.value.setWidth 32) (BitVec.ofNat 32 f.position)

/-- A message complete in the buffer: L, the body, the two CRC characters. The receiver becomes
ASLEEP; the CRC is checked, then the body, then the cue is accepted (R120, R121, R126, R127). -/
def completeMessage (s : State) (chars : List Byte) : State :=
  let n := chars.length - 2
  let received : BitVec 16 := chars.getD (n + 1) 0 ++ chars.getD n 0
  let computed := crcOf (chars.take n)
  let s' := fallAsleep s
  if received ≠ computed then
    raiseEvent s'
      (eventNow s' .linkBadCrc 0 none (received.setWidth 32) (computed.setWidth 32))
  else
    match checkBody s' (chars.getD 0 0) ((chars.take n).drop 1) with
    | .error f => raiseEvent s' (badCueEvent s' f)
    | .ok (cue, due) => acceptCue s' cue due

/-- A data character taken in AWAKE joins the buffer, and the timer restarts (R120). -/
def takeDataChar (s : State) (value : Byte) : State :=
  let chars := s.crx.buffer ++ [value]
  let length := (chars.getD 0 0).toNat
  if length < 2 ∨ 9 < length then
    raiseEvent (fallAsleep s) (badCueEvent s ⟨1, chars.getD 0 0, 1⟩)
  else if chars.length = length + 3 then completeMessage s chars
  else { s with crx := { s.crx with buffer := chars, timer := true } }

/-- An address character taken in AWAKE discards the message and is compared again (R123). -/
def cutOffMessage (s : State) (value : Byte) : State :=
  compareAddress
    (raiseEvent (fallAsleep s)
      (eventNow s .linkTruncated 2 none (bufferCount s) (value.setWidth 32)))
    value

/-- A character taken at its stop-bit sample, by the receiver state (R116, R118 to R120, R123). -/
def takeCharacter (s : State) (flag : Bool) (value : Byte) : State :=
  match s.crx.state with
  | .off => s
  | .inBreak => s
  | .asleep => if flag then compareAddress s value else s
  | .awake => if flag then cutOffMessage s value else takeDataChar s value

/-- A character from its fall, unless that has come already, to its stop-bit sample (R116). -/
def receiveCharacter (s : State) (flag : Bool) (value : Byte) : State :=
  takeCharacter (lineRises (seeFall s)) flag value

/-! ### Whole messages -/

/-- The body characters of a cue: kind, due, stamp, payload (R120). -/
def bodyChars (kind : Byte) (due : Due) (payload : List Byte) : List Byte :=
  match due with
  | .now => kind :: 0 :: payload
  | .atStamp stamp => kind :: 1 :: (wordChars stamp ++ payload)
  | .onset => kind :: 2 :: payload

/-- L, the body and the CRC characters of a message, the CRC changed by an error pattern. -/
def messageChars (kind : Byte) (due : Due) (payload : List Byte) (crcError : BitVec 16) :
    List Byte :=
  let sized := BitVec.ofNat 8 (bodyChars kind due payload).length :: bodyChars kind due payload
  let crc := crcOf sized ^^^ crcError
  sized ++ [crc.extractLsb' 0 8, crc.extractLsb' 8 8]

/-- A whole message taken from the link: its address character, then its data characters. -/
def takeMessage (s : State) (dest kind : Byte) (due : Due) (payload : List Byte)
    (crcError : BitVec 16) : State :=
  (messageChars kind due payload crcError).foldl (fun s c => receiveCharacter s false c)
    (receiveCharacter s true dest)

/-! ### The meanings of the link's rows -/

/-- LINK_CHARACTER_TAKEN (R116): a high sample in the start bit is noise; after a low stop bit the line is
still low and nothing is judged yet. -/
def execLinkCharacterTaken (signal : LinkSignal) (s : State) : Host.Outcome State Fault Refusal :=
  let s := beginStep s
  match signal with
  | .fall => .next (seeFall s)
  | .samples line =>
    if line.getLsbD 0 then .next (fallWasNoise (seeFall s))
    else if line.getLsbD 10 then .next (receiveCharacter s (lineFlag line) (lineValue line))
    else .next (seeFall s)

/-- LINK_BAD_CHAR (R124): the line rises, and in ASLEEP or AWAKE that is a framing error. -/
def execLinkBadChar (line : BitVec 11) (s : State) : Host.Outcome State Fault Refusal :=
  let s := beginStep s
  let e := eventNow s .linkBadChar (receiverDetail s) none ((lineValue line).setWidth 32)
    (bufferCount s)
  let risen := lineRises (seeFall s)
  match s.crx.state with
  | .off => .next risen
  | .inBreak => .next risen
  | .asleep => .next (raiseEvent risen e)
  | .awake => .next (raiseEvent (fallAsleep risen) e)

/-- LINK_BREAK (R125): the line held low for 2 character times from its fall; a break in ASLEEP or AWAKE. -/
def execLinkBreak (s : State) : Host.Outcome State Fault Refusal :=
  let s := beginStep s
  let e := eventNow s .linkBreak (receiverDetail s) none (bufferCount s) 0
  let broken (s : State) : State :=
    { s with crx := { s.crx with state := .inBreak, buffer := [], timer := false } }
  match s.crx.state with
  | .off => .next (seeFall s)
  | .inBreak => .next (seeFall s)
  | .asleep => .next (raiseEvent (broken (seeFall s)) e)
  | .awake => .next (raiseEvent (broken (seeFall s)) e)

/-- BREAK_END (R125): the line high for 1 character time, which ends a break; in OFF only the line's level
follows. In ASLEEP and AWAKE no break is to end (notes/assumptions/7.md). -/
def execBreakEnd (s : State) : Host.Outcome State Fault Refusal :=
  let s := beginStep s
  match s.crx.state with
  | .off => .next (lineRises s)
  | .inBreak => .next (fallAsleep (lineRises s))
  | .asleep => .next s
  | .awake => .next s

/-- LINK_TRUNCATED (R122): the character timer, running in AWAKE, expires. -/
def execLinkTruncated (s : State) : Host.Outcome State Fault Refusal :=
  let s := beginStep s
  if s.crx.state = .awake ∧ s.crx.timer then
    .next (raiseEvent (fallAsleep s) (eventNow s .linkTruncated 1 none (bufferCount s) 0))
  else .next s

/-- CHORD (R37, R120 to R130). -/
def execChord (dest : Byte) (due : Due) (root shape : Byte) (crcError : BitVec 16) (s : State) :
    Host.Outcome State Fault Refusal :=
  .next (takeMessage (beginStep s) dest 1 due [root, shape] crcError)

/-- KEY (R37, R120 to R130). -/
def execKey (dest : Byte) (due : Due) (root scale : Byte) (crcError : BitVec 16) (s : State) :
    Host.Outcome State Fault Refusal :=
  .next (takeMessage (beginStep s) dest 2 due [root, scale] crcError)

/-- VOICE_ON (R40, R120 to R130). -/
def execVoiceOn (dest : Byte) (due : Due) (mask : Byte) (crcError : BitVec 16) (s : State) :
    Host.Outcome State Fault Refusal :=
  .next (takeMessage (beginStep s) dest 3 due [mask] crcError)

/-- VOICE_OFF (R41, R120 to R130). -/
def execVoiceOff (dest : Byte) (due : Due) (mask : Byte) (crcError : BitVec 16) (s : State) :
    Host.Outcome State Fault Refusal :=
  .next (takeMessage (beginStep s) dest 4 due [mask] crcError)

/-- VOICE_MODE (R42, R120 to R130). -/
def execVoiceMode (dest : Byte) (due : Due) (voice mode parameter : Byte) (crcError : BitVec 16)
    (s : State) : Host.Outcome State Fault Refusal :=
  .next (takeMessage (beginStep s) dest 5 due [voice, mode, parameter] crcError)

/-- HOLD (R51, R120 to R130). -/
def execHold (dest : Byte) (due : Due) (crcError : BitVec 16) (s : State) :
    Host.Outcome State Fault Refusal :=
  .next (takeMessage (beginStep s) dest 6 due [] crcError)

/-- RELEASE (R54, R120 to R130). -/
def execRelease (dest : Byte) (due : Due) (crcError : BitVec 16) (s : State) :
    Host.Outcome State Fault Refusal :=
  .next (takeMessage (beginStep s) dest 7 due [] crcError)

/-- TIMEBASE (R10, R120 to R133). -/
def execTimebase (dest : Byte) (due : Due) (count : Word) (crcError : BitVec 16) (s : State) :
    Host.Outcome State Fault Refusal :=
  .next (takeMessage (beginStep s) dest 8 due (wordChars count) crcError)

/-- CLEAR (R134, R120 to R130). -/
def execClear (dest : Byte) (due : Due) (crcError : BitVec 16) (s : State) :
    Host.Outcome State Fault Refusal :=
  .next (takeMessage (beginStep s) dest 9 due [] crcError)

end Sys2Proof.Machine
end

