-- ==== Sys2Proof/Machine/CapturePath.lean ====
section
/-! DEFINITION. The Capture Unit (01): placing positions, hop boundaries, the four cases of the gap and
the capture restart. -/

namespace Sys2Proof.Machine

/-- A hop boundary: the Report Unit's hop counter rises, the tracker is notified (R7, R16, R177). -/
def hopBoundary (s : State) (stamp : Word) : State :=
  { s with
    trk := s.trk.hop s.setup.active.general stamp
    rpt := { s.rpt with hopCounter := s.rpt.hopCounter + 1 } }

/-- A position placed: its sample is handed over, C and the fill rise (R2 to R4, R8, R15). -/
def placeSample (s : State) (x : Sample) : State :=
  { s with
    trk := s.trk.push x
    cap := { s.cap with c := s.cap.c + 1, fill := min Config.fillLimit (s.cap.fill + 1) } }

/-- Whether the position just placed completes a hop (R7). -/
def atHopBoundary (s : State) : Bool :=
  decide (s.cap.c.toNat % Config.hopSize = 0 ∧ Config.frameSize ≤ s.cap.fill)

/-- A position placed, with its hop boundary, the count standing at `stamp` for it (R7). -/
def placePosition (s : State) (x : Sample) (stamp : Word) : State :=
  if atHopBoundary (placeSample s x) then hopBoundary (placeSample s x) stamp else placeSample s x

/-- Positions placed in ascending order; the first makes the count `stamp` (R4, R7). -/
def placePositions (xs : List Sample) (stamp : Word) (s : State) : State :=
  match xs with
  | [] => s
  | x :: rest => placePositions rest (stamp + 1) (placePosition s x stamp)

/-- Positions placed by a write, from the count before it on. -/
def placeFrom (s : State) (xs : List Sample) : State := placePositions xs (s.cap.count + 1) s

/-- Capture set to begin at a ring slot: the next position is 0 (R2, R5). -/
def setOffset (s : State) (slot : Nat) : State :=
  { s with cap := { s.cap with offset := some slot, c := 0, fill := 0 } }

/-- A synchronising write (R2). -/
def synchronise (s : State) (slot : Nat) (x : Sample) : State :=
  advanceCount (placeFrom (setOffset s slot) [x]) 1

/-- A write in step (R3). -/
def captureInStep (s : State) (x : Sample) : State := advanceCount (placeFrom s [x]) 1

/-- A small gap (R4). -/
def captureGap (s : State) (slot gap : Nat) (x : Sample) : State :=
  let s' := advanceCount (placeFrom s (List.replicate gap 0 ++ [x])) (gap + 1)
  raiseEvent s' (eventNow s' .captureGap 0 none (BitVec.ofNat 32 gap) (BitVec.ofNat 32 slot))

/-- A capture restart by gap, in the order of R5. -/
def captureRestart (s : State) (slot gap : Nat) (x : Sample) : State :=
  let s' := advanceCount (placeFrom (setOffset (parkVoices (clearTracker s)) slot) [x]) (gap + 1)
  raiseEvent s' (eventNow s' .captureRestart 1 none (BitVec.ofNat 32 gap) (BitVec.ofNat 32 slot))

/-- A rewrite (R6). -/
def captureBackward (s : State) (a : Addr) (expected : Nat) : State :=
  raiseEvent s (eventNow s .captureBackward 0 none (a.setWidth 32) (BitVec.ofNat 32 expected))

/-- The expected slot, (o + C) mod size (R3). -/
def expectedSlot (o : Nat) (c : Word) (size : Nat) : Nat := (o + c.toNat) % size

/-- The gap of a slot (R3). -/
def slotGap (slot expected size : Nat) : Nat := (slot + size - expected) % size

/-- A write offered to the Capture Unit (R1 to R6); after a captured write every PARKED voice makes
the entry test (R63). -/
def captureWrite (s : State) (a : Addr) (slot size : Nat) (x : Sample) : State :=
  match s.cap.offset with
  | none => entryTests (synchronise s slot x)
  | some o =>
    let expected := expectedSlot o s.cap.c size
    let gap := slotGap slot expected size
    if gap = 0 then entryTests (captureInStep s x)
    else if gap ≤ Config.smallGap then entryTests (captureGap s slot gap x)
    else if gap < size / 2 then entryTests (captureRestart s slot gap x)
    else captureBackward s a expected

/-- Capture put back to its beginning by START and RESTART (R12). -/
def startCapture (s : State) : State := { s with cap := CaptureUnit.start }

/-- The capture restart of an APPLY that changes the INPUT entry (R14). -/
def applyCaptureRestart (s : State) : State :=
  let s' := parkVoices (clearTracker
    { s with cap := { s.cap with offset := none, c := 0, fill := 0 } })
  raiseEvent s' (eventNow s' .captureRestart 2 none 0 0)

end Sys2Proof.Machine
end

