-- ==== Sys2Proof/Machine/Reports.lean ====
section
/-! DEFINITION. The Report Unit (10): the consumer index, the start of a record, its words and its
producer write, and the ring reset. -/

namespace Sys2Proof.Machine

/-! ### The consumer index (R175) -/

/-- Whether the Report Unit takes a consumer index (R175). -/
def consumerTaken (s : State) (v : Word) : Bool :=
  decide (v.toNat < ringSize s ∧
    ringDistance (ringSize s) s.rpt.consumer v.toNat ≤ unconsumedCount s)

/-- A consumer index taken: the records up to it are consumed (R175, R177). -/
def takeConsumer (s : State) (v : Word) : State :=
  { s with rpt := { s.rpt with
      consumer := v.toNat
      unconsumed := s.rpt.unconsumed.drop (ringDistance (ringSize s) s.rpt.consumer v.toNat) } }

/-- REPORT_INDEX (R175). -/
def reportIndexEvent (s : State) (v : Word) : Event :=
  eventNow s .reportIndex 0 none v (BitVec.ofNat 32 s.rpt.producer)

/-! ### Records (R174) -/

/-- A command that resets or removes the ring is in progress (R163, R174). -/
def ringAwaited (s : State) : Bool := (s.setup.command.map (·.touchesRing)).getD false

/-- Whether a record may start (R174). -/
def recordReady (s : State) : Bool :=
  ringInEffect s && !s.rpt.queue.isEmpty && !ringAwaited s && s.rpt.record.isNone &&
    decide (unconsumedCount s + 1 < ringSize s)

/-- The address of a word of the REPORT window. -/
def reportAddr (s : State) (offset : Nat) : Addr :=
  ((reportEntry s).getD WindowEntry.off).base + BitVec.ofNat 20 offset

/-- The part write of word `i` of an event's record, at slot p (R174). -/
def recordWrite (s : State) (e : Event) (i : Fin 4) : PartWrite :=
  ⟨.record i, reportAddr s (16 + 4 * s.rpt.producer + i.val), recordWordOf e s.rpt.lost i⟩

/-- Several part writes requested in order. -/
def requestWrites (s : State) (ws : List PartWrite) : State :=
  { s with bus := { s.bus with requests := s.bus.requests ++ ws } }

/-- The oldest event leaves the queue with the lost flag, and its four words are requested (R174). -/
def startRecordOf (s : State) (e : Event) (rest : List Event) : State :=
  requestWrites
    { s with rpt := { s.rpt with queue := rest, lost := false, record := some e.kind } }
    ([0, 1, 2, 3].map (recordWrite s e))

/-- The next record started where one may start (R174): by a completion at the port that leaves it ready,
before the next grant, else by its own row (notes/assumptions/36.md). -/
def startReadyRecord (s : State) : State :=
  if recordReady s then
    match s.rpt.queue with
    | [] => s
    | e :: rest => startRecordOf s e rest
  else s

/-- REPORT_RECORD_START (R174); while no record may start there is nothing to do
(notes/assumptions/7.md). -/
def execReportRecordStart (s : State) : Host.Outcome State Fault Refusal :=
  let s := beginStep s
  if recordReady s then .next (grant (startReadyRecord s)) else .next s

/-- p + 1 modulo N. -/
def nextProducer (s : State) : Nat := (s.rpt.producer + 1) % ringSize s

/-- A record word has been written: after the fourth the producer write is requested (R174). -/
def recordWordDone (s : State) (i : Fin 4) : State :=
  if i = 3 then requestWrite s ⟨.producer, reportAddr s 0, producerWord (nextProducer s)⟩ else s

/-- The producer index has been written: the record is produced (R174, R177). -/
def producerDone (s : State) : State :=
  { s with rpt := { s.rpt with
      producer := nextProducer s
      unconsumed := s.rpt.unconsumed ++
        (s.rpt.record.map (fun k => (⟨k, s.rpt.hopCounter⟩ : Produced))).toList
      record := none } }

/-! ### The ring reset (R173, R176) -/

/-- The ring is fresh and empty; its words are not written (R176). -/
def resetRing (s : State) : State :=
  { s with rpt := { s.rpt with producer := 0, consumer := 0, unconsumed := [], ringWritten := false } }

/-- The event queue emptied and the lost flag cleared (R173). -/
def emptyEvents (s : State) : State := { s with rpt := { s.rpt with queue := [], lost := false } }

/-- The ring-reset words of the REPORT entry, in the order of R163: producer index 0, consumer index
0, N. -/
def ringWords (s : State) : List PartWrite :=
  [⟨.ringReset 0, reportAddr s 0, producerWord 0⟩, ⟨.ringReset 1, reportAddr s 1, 0⟩,
    ⟨.ringReset 2, reportAddr s 2, ringSizeWord (ringSize s)⟩]

end Sys2Proof.Machine
end

