-- ==== Sys2Proof/Machine/SetupUnit.lean ====
section
/-! DEFINITION. The Setup Unit (09): validation, the taking of a command, its completion, and the status
and refusal words. -/

namespace Sys2Proof.Machine

/-! ### Validation: the windows (R143) -/

/-- The entries 1 to 7 of a setup with their numbers. -/
def numberedWindows (u : Setup) : List (WindowEntry × Nat) := u.windows.toList.zipIdx 1

/-- The powers of two from 2^low to 2^(low + count - 1). -/
def powersOfTwo (low count : Nat) : List Nat := (List.range count).map (fun i => 2 ^ (low + i))

/-- An entry's fields are illegal (R143, BAD_WINDOW). Code 5 is CONTROL, unknown in entries 1 to 7
(section 11.6). -/
def badWindow (e : WindowEntry) : Bool :=
  match Role.ofCode e.role with
  | some .off => false
  | none => true
  | some .control => true
  | some .input => decide (2 < e.format.toNat) || badSpan e
  | some .tap => badSpan e
  | some .report => badSpan e
  | some .protect => badSpan e
where
  /-- Size, alignment or end is illegal. -/
  badSpan (e : WindowEntry) : Bool :=
    decide (e.size.toNat ∉ powersOfTwo 8 11 ∨ e.base.toNat % e.size.toNat ≠ 0 ∨
      Config.memoryWords < e.base.toNat + e.size.toNat)

/-- The entries of a role, with their numbers. -/
def windowsOf (u : Setup) (r : Role) : List (WindowEntry × Nat) :=
  (numberedWindows u).filter (fun x => decide (Role.ofCode x.1.role = some r))

/-- The size of a setup's INPUT entry, 0 without one. -/
def setupInputSize (u : Setup) : Nat := ((windowsOf u .input).head?.map (·.1.size.toNat)).getD 0

/-- The roles' counts are illegal (R143, ROLE_COUNT). -/
def badRoleCount (u : Setup) : Bool :=
  decide ((windowsOf u .input).length ≠ 1 ∨ setupInputSize u < 4096 ∨ 65536 < setupInputSize u ∨
    1 < (windowsOf u .tap).length ∨ 1 < (windowsOf u .report).length)

/-- Two entries share an address. -/
def sharesAddress (a b : WindowEntry) : Bool :=
  decide (a.base.toNat < b.base.toNat + b.size.toNat ∧ b.base.toNat < a.base.toNat + a.size.toNat)

/-- The higher number of the first pair that shares an address, pairs taken by their lower entry, then
their higher (notes/assumptions/16.md). -/
def firstOverlap (es : List (WindowEntry × Nat)) : Option Nat :=
  match es with
  | [] => none
  | x :: rest =>
    match rest.find? (fun y => sharesAddress x.1 y.1) with
    | some y => some y.2
    | none => firstOverlap rest

/-- The entries the overlap check compares: entry 0 and the INPUT, TAP and REPORT entries (R143). -/
def overlapCandidates (entry0 : WindowEntry) (u : Setup) : List (WindowEntry × Nat) :=
  (entry0, 0) :: (numberedWindows u).filter (fun x =>
    decide (Role.ofCode x.1.role = some .input ∨ Role.ofCode x.1.role = some .tap ∨
      Role.ofCode x.1.role = some .report))

/-! ### Validation: the fields (R98, R157 to R159) -/

/-- TRACKER_RANGE: the fields so marked in R157. -/
def trackerRangeOk (g : General) : Bool :=
  decide (8000 ≤ g.sampleRate.toNat ∧ g.sampleRate.toNat ≤ 96000 ∧ 16 ≤ g.tmin.toNat ∧
    g.tmin.toNat < g.tmax.toNat ∧ g.tmax.toNat ≤ 1024 ∧ 1 ≤ g.diffThreshold.toNat ∧
    g.silence.toNat ≤ 23 ∧ -100 ≤ g.tuning.toInt ∧ g.tuning.toInt ≤ 100 ∧
    g.hysteresis.toNat ≤ 49 ∧ 1 ≤ g.noteHold.toNat ∧ g.noteHold.toNat ≤ 8 ∧
    1 ≤ g.unvoicedHold.toNat ∧ g.unvoicedHold.toNat ≤ 16)

/-- LAG_RANGE: XF and the five inequalities of R98. -/
def lagRangeOk (g : General) (size : Nat) : Bool :=
  decide (32 ≤ g.xf.toNat ∧ g.xf.toNat ≤ 512 ∧ 8 + 3 * g.xf.toNat ≤ g.lagLow.toNat ∧
    g.lagLow.toNat + g.tmax.toNat ≤ g.lagCenter.toNat ∧
    g.lagCenter.toNat + g.tmax.toNat ≤ g.lagHigh.toNat ∧
    g.lagHigh.toNat + g.xf.toNat + 64 ≤ size ∧
    g.tmin.toNat ≤ g.jump.toNat ∧ g.jump.toNat ≤ g.tmax.toNat)

/-- VOICE_FIELD: one voice setup (R158). -/
def voiceFieldOk (v : VoiceSetup) : Bool :=
  match Mode.ofCode v.mode.toNat with
  | none => false
  | some m =>
    m.inRange v.parameter.toInt &&
      decide (-7 ≤ v.fallback.toInt ∧ v.fallback.toInt ≤ 7 ∧ v.lowNote.toNat ≤ v.highNote.toNat ∧
        v.highNote.toNat ≤ 127 ∧ 1 ≤ v.glide.toNat ∧ v.glide.toNat ≤ 2400)

/-- The scale masks that fail (R159), by index. -/
def badScales (u : Setup) : List Nat :=
  (u.scales.toList.zipIdx.filter (fun x => !x.1.getLsbD 0)).map (·.2)

/-- The shape masks that fail (R159), by 16 plus the index. -/
def badShapes (u : Setup) : List Nat :=
  (u.shapes.toList.zipIdx.filter (fun x => decide (x.1 ≠ 0) && !x.1.getLsbD 0)).map
    (fun x => 16 + x.2)

/-- LINK_RATE (R161). -/
def linkRateOk (g : General) : Bool :=
  decide (1 ≤ g.divisor.toNat ∧ (g.group.toNat ≤ 7 ∨ g.group.toNat = 255))

/-- REPORT_SIZE of a REPORT entry (R161 check 9). -/
def reportSizeOk (g : General) (e : WindowEntry) : Bool :=
  decide (e.records.toNat ∈ powersOfTwo 4 7 ∧ 16 + 4 * e.records.toNat ≤ e.size.toNat ∧
    1 ≤ g.trigger.toNat ∧ g.trigger.toNat + 1 ≤ e.records.toNat)

/-- A failure of validation: its reason and detail. -/
structure Failure where
  reason : Reason
  detail : Byte
deriving DecidableEq, Repr

/-- A failure with the lowest number of a list as its detail. -/
def failLowest (reason : Reason) (numbers : List Nat) : Option Failure :=
  numbers.head?.map (fun n => ⟨reason, BitVec.ofNat 8 n⟩)

/-- A failure with detail 0, unless a check holds. -/
def failUnless (reason : Reason) (ok : Bool) : Option Failure :=
  if ok then none else some ⟨reason, 0⟩

/-- The checks of R161 in their order; the first failure decides. -/
def validationChecks (entry0 : WindowEntry) (u : Setup) : List (Option Failure) :=
  [failLowest .badWindow (((numberedWindows u).filter (fun x => badWindow x.1)).map (·.2)),
    failUnless .roleCount (!badRoleCount u),
    failLowest .overlap (firstOverlap (overlapCandidates entry0 u)).toList,
    failUnless .trackerRange (trackerRangeOk u.general),
    failUnless .lagRange (lagRangeOk u.general (setupInputSize u)),
    failLowest .voiceField ((u.voices.toList.zipIdx.filter (fun x => !voiceFieldOk x.1)).map (·.2)),
    failLowest .table
      ((if 11 < u.general.keyRoot.toNat then [255] else []) ++ badScales u ++ badShapes u),
    failUnless .linkRate (linkRateOk u.general),
    failLowest .reportSize
      (((windowsOf u .report).filter (fun x => !reportSizeOk u.general x.1)).map (·.2))]

/-- The result of validation: none where every check passes (R161). -/
def validate (entry0 : WindowEntry) (u : Setup) : Option Failure :=
  (validationChecks entry0 u).findSome? id

/-! ### What becomes of the report ring (R170, R176) -/

/-- What a setup command makes of the report ring. -/
inductive RingChange where
  | kept | fresh | removed
deriving DecidableEq, Repr

/-- What R170 compares of a REPORT window: base, size and N. -/
def reportKey (e : WindowEntry) : BitVec 20 × BitVec 32 × BitVec 32 := (e.base, e.size, e.records)

/-- What R170 compares of an INPUT window: base, size and format. -/
def inputKey (e : WindowEntry) : BitVec 20 × BitVec 32 × BitVec 4 := (e.base, e.size, e.format)

/-- The first entry of a role among window entries 1 to 7. -/
def findRole (es : Vector WindowEntry 7) (r : Role) : Option WindowEntry :=
  es.toList.find? (fun e => decide (Role.ofCode e.role = some r))

/-- The change of the report ring from one set of entries to another (R170). -/
def ringChange (old new : Vector WindowEntry 7) : RingChange :=
  match (findRole old .report).map reportKey, (findRole new .report).map reportKey with
  | none, none => .kept
  | some _, none => .removed
  | none, some _ => .fresh
  | some a, some b => if a = b then .kept else .fresh

/-- Whether the INPUT window changes (R170). -/
def inputChanged (old new : Vector WindowEntry 7) : Bool :=
  decide ((findRole old .input).map inputKey ≠ (findRole new .input).map inputKey)

/-! ### The taking of a command (R162 to R166) -/

/-- What a command word taken comes to (R166). -/
inductive Verdict where
  | illegal
  | rejected (failure : Failure)
  | effects (touchesRing : Bool)
deriving DecidableEq, Repr

/-- A command that validates: REJECTED, or with effects. -/
def validated (s : State) (touchesRing : Bool) : Verdict :=
  match validate s.map.entry0 s.setup.shadow with
  | some f => .rejected f
  | none => .effects touchesRing

/-- Whether a START will reset or remove the report ring: the new setup or the map holds a REPORT entry
(R163, R167). -/
def startTouchesRing (s : State) : Bool :=
  (findRole s.setup.shadow.windows .report).isSome || (findRole s.map.entries .report).isSome

/-- Whether an APPLY will reset or remove the report ring (R163, R170). -/
def applyTouchesRing (s : State) : Bool :=
  decide (ringChange s.map.entries s.setup.shadow.windows ≠ .kept)

/-- The table of R166, by command code and engine state. -/
def verdict (s : State) (code : Byte) : Verdict :=
  match code.toNat, s.setup.engine with
  | 1, .running => .illegal
  | 1, .idle => validated s (startTouchesRing s)
  | 1, .halted => validated s (startTouchesRing s)
  | 2, .idle => .illegal
  | 2, .running => validated s (applyTouchesRing s)
  | 2, .halted => validated s (applyTouchesRing s)
  | 3, .idle => .illegal
  | 3, .running => .effects false
  | 3, .halted => .effects false
  | 4, .running => .effects false
  | _, _ => .illegal

/-- The flag is clear: the status word write is requested, carrying the engine state as the command
left it (R163, R164). -/
def endCommand (s : State) (w : StatusWrite) : State :=
  requestWrite { s with setup := { s.setup with command := none, status := some w } }
    ⟨.status, controlAddr s 1, statusWord w s.setup.engine⟩

/-- The status of a command with effects that has completed. -/
def doneStatus (c : Command) : StatusWrite := ⟨c.sequence, c.code, .done, .none, 0⟩

/-- A refusal write: replaces the contents of one still requested, else a new request (R165). -/
def requestRefusal (s : State) (w : PartWrite) : State :=
  if s.bus.requests.any (fun x => decide (x.owner = .refusal)) then
    { s with bus := { s.bus with
        requests := s.bus.requests.map (fun x => if x.owner = .refusal then w else x) } }
  else requestWrite s w

/-- The command code of a command word (section 11.3). -/
def wordCode (d : Word) : Byte := d.extractLsb' 0 8

/-- The sequence of a command word. -/
def wordSequence (d : Word) : Byte := d.extractLsb' 8 8

/-- A command word handed to the Setup Unit (R162, R165, R166). A rejected or illegal command completes
with its taking (notes/assumptions/8.md). -/
def takeCommand (s : State) (d : Word) : State :=
  if s.setup.status.isSome then
    requestRefusal s ⟨.refusal, controlAddr s 2, refusalWord (wordSequence d) (wordCode d)⟩
  else
    match verdict s (wordCode d) with
    | .illegal => endCommand s ⟨wordSequence d, wordCode d, .illegal, .none, 0⟩
    | .rejected f => endCommand s ⟨wordSequence d, wordCode d, .rejected, f.reason, f.detail⟩
    | .effects touches =>
      { s with setup := { s.setup with
          command := some ⟨wordCode d, wordSequence d, touches, false⟩ } }

/-! ### Completion (R163, R167 to R170) -/

/-- Whether a tap read is in flight. -/
def tapInFlight (s : State) : Bool :=
  match s.bus.cycle with
  | some (.tap _) => true
  | _ => false

/-- Whether a command can complete now (R163). -/
def canComplete (s : State) (c : Command) : Bool :=
  !c.completed && !tapInFlight s && (!c.touchesRing || s.rpt.record.isNone) && !heldWriteReady s

/-- The shadow setup copied into the active setup and the window map (R160). -/
def copySetup (s : State) : State :=
  { s with
    setup := { s.setup with active := s.setup.shadow }
    map := { s.map with entries := s.setup.shadow.windows } }

/-- The engine state set. -/
def setEngine (s : State) (e : Engine) : State := { s with setup := { s.setup with engine := e } }

/-- The hop counter set to 0 by START (R177). -/
def clearHops (s : State) : State := { s with rpt := { s.rpt with hopCounter := 0 } }

/-- The Cue Receiver set by START and RESTART (R117, R118). Where the line is low as it leaves OFF, the
fall that `lineLow` holds has come at that moment: it is judged as any other, at the new divisor. -/
def startReceiver (s : State) : State :=
  let divisor := s.setup.active.general.divisor
  if s.crx.state = .inBreak then { s with crx := { s.crx with divisor := divisor } }
  else
    { s with crx := { s.crx with state := .asleep, divisor := divisor, buffer := [], timer := false } }

/-- The effects of START, steps 1 to 8 of R167; the ring-reset words follow. -/
def startEffects (s : State) : State :=
  let s := setEngine (copySetup s) .running
  let s := clearHops (resetRing (emptyEvents s))
  let s := clearTrackerFlags (clearTracker (startCapture s))
  let s := clearMixFlag (startVoices (emptyLists s) true)
  startReceiver (replanAll (startPlanner s))

/-- The effects of RESTART (R169). -/
def restartEffects (s : State) : State :=
  let s := clearTracker (startCapture s)
  let s := startVoices (emptyLists s) false
  startReceiver (replanAll (startPlanner s))

/-- The effects of STOP in RUNNING (R168); in HALTED nothing changes (R166). -/
def stopEffects (s : State) : State :=
  match s.setup.engine with
  | .running => stopPlanner (clearTracker (emptyLists (stopVoices (setEngine s .halted))))
  | .halted => s
  | .idle => s

/-- What an APPLY makes of the report ring (R170, R173). -/
def applyRing (s : State) (change : RingChange) : State :=
  match change with
  | .kept => s
  | .fresh => resetRing s
  | .removed => resetRing (emptyEvents s)

/-- The fades brought to a new XF (R77). -/
def applyFades (s : State) : State :=
  mapVoices s (fun _ r => fitFade s.setup.active.general.xf.toNat r)

/-- The effects of APPLY (R170): in RUNNING with the capture restart of R14, the re-plan of R59 and the
fades of R77; in HALTED the copy, the ring and the modes alone. -/
def applyEffects (s : State) : State :=
  let change := ringChange s.map.entries s.setup.shadow.windows
  match s.setup.engine with
  | .running =>
    let copied := copySetup s
    let captured :=
      if inputChanged s.map.entries s.setup.shadow.windows then applyCaptureRestart copied else copied
    let planned := replanAll (applyModes (applyRing captured change))
    if s.setup.active.general.xf = s.setup.shadow.general.xf then planned else applyFades planned
  | .halted => applyModes (applyRing (copySetup s) change)
  | .idle => s

/-- The effects of a command by its code, and whether it writes ring-reset words (R163, R167, R176). -/
def commandEffects (s : State) (c : Command) : State × Bool :=
  match c.code.toNat with
  | 1 => (startEffects s, (findRole s.setup.shadow.windows .report).isSome)
  | 2 => (applyEffects s,
      decide (ringChange s.map.entries s.setup.shadow.windows = .fresh))
  | 3 => (stopEffects s, false)
  | 4 => (restartEffects s, false)
  | _ => (s, false)

/-- The flag after the effects: cleared at once, or kept until the last ring-reset word (R163). -/
def afterEffects (s : State) (c : Command) (writesRing : Bool) : State :=
  if writesRing then
    requestWrites
      { s with setup := { s.setup with command := some { c with completed := true } } } (ringWords s)
  else endCommand s (doneStatus c)

/-- A command completes whole. -/
def completeCommand (s : State) (c : Command) : State :=
  afterEffects (commandEffects s c).1 c (commandEffects s c).2

/-- COMMAND_COMPLETION (R163); while no command can complete there is nothing to do
(notes/assumptions/7.md). -/
def execCommandCompletion (s : State) : Host.Outcome State Fault Refusal :=
  let s := beginStep s
  match s.setup.command with
  | none => .next s
  | some c => if canComplete s c then .next (grant (completeCommand s c)) else .next s

/-- A ring-reset word has been written; the last brings the ring into effect and clears the flag
(R163, R176). -/
def ringWordDone (s : State) (i : Fin 3) : State :=
  if i = 2 then
    let s' := { s with rpt := { s.rpt with ringWritten := true } }
    match s.setup.command with
    | none => s'
    | some c => endCommand s' (doneStatus c)
  else s

/-- The CMD_DONE of a command's end (R164). -/
def cmdDoneEvent (s : State) (w : StatusWrite) : Event :=
  eventNow s .cmdDone (w.result.code.setWidth 8) none (w.sequence.setWidth 32) (w.code.setWidth 32)

/-- The status word has been written: the command ends (R164). -/
def statusWordDone (s : State) : State :=
  match s.setup.status with
  | none => s
  | some w =>
    raiseEvent { s with setup := { s.setup with status := none } } (cmdDoneEvent s w)

end Sys2Proof.Machine
end

