-- ==== Sys2Proof/Machine/TapReads.lean ====
section
/-! DEFINITION. Tap reads (05, 06): the hard check, fetches, the output value, the advance, the soft
check and its splices, and a tap read from its taking to its completion. -/

namespace Sys2Proof.Machine

/-! ### Lags (R81) -/

/-- The whole part of a read position. -/
def wholePart (p : Position) : Word := p.extractLsb' 16 32

/-- The fraction of a read position, in 1/65,536. -/
def fraction (p : Position) : Nat := (p.extractLsb' 0 16).toNat

/-- The whole lag: C minus floor(position), modulo 2^32, signed (R81). -/
def wholeLag (c : Word) (p : Position) : Int := (c - wholePart p).toInt

/-- The exact lag in 1/65,536 of a sample, modulo 2^32, signed (R81). -/
def exactLag (c : Word) (p : Position) : Int := ((c ++ 0#16) - p).toInt

/-- The size of the INPUT window in words. -/
def inputSize (s : State) : Nat := (inputEntry s).size.toNat

/-- The format of the INPUT window. -/
def inputFormat (s : State) : Format := Format.ofCode (inputEntry s).format

/-- Whether a whole lag is inside the hard window (R82). -/
def insideHard (s : State) (p : Position) : Bool :=
  decide (2 ≤ wholeLag s.cap.c p ∧ wholeLag s.cap.c p ≤ (inputSize s : Int) - 64)

/-! ### Step 1: the hard check (R84, R85) -/

/-- A HARD_SPLICE to raise: its detail code and the lag that failed (R86). -/
structure HardSplice where
  detail : Byte
  lag : Int
deriving DecidableEq, Repr

/-- The hard check of a steady voice at P (R84). -/
def hardCheckSteady (s : State) (r : VoiceRecord) (p : Position) : VoiceRecord × List HardSplice :=
  if insideHard s p then (r, [])
  else
    ({ r with p := some (centrePosition s), splicePending := false }, [⟨3, wholeLag s.cap.c p⟩])

/-- The hard check of a record (R84, R85). -/
def hardCheck (s : State) (r : VoiceRecord) : VoiceRecord × List HardSplice :=
  match r.p, r.xfade with
  | none, _ => (r, [])
  | some p, none => hardCheckSteady s r p
  | some p, some x =>
    if insideHard s p then
      if insideHard s x.q then (r, [])
      else ({ r with xfade := none, splicePending := false }, [⟨2, wholeLag s.cap.c x.q⟩])
    else
      let cut := hardCheckSteady s { r with p := some x.q, xfade := none, splicePending := false } x.q
      (cut.1, ⟨1, wholeLag s.cap.c p⟩ :: cut.2)

/-- The event of a HARD_SPLICE in a tap read (R86). -/
def hardSpliceEvent (r : TapRead) (v : Fin 4) (h : HardSplice) : Event :=
  ⟨.hardSplice, h.detail, some v, BitVec.ofInt 32 h.lag, BitVec.ofNat 32 r.offset, r.stamp⟩

/-! ### Step 2: fetch and compute (R71, R87, R88) -/

/-- The address of the ring word of a capture position (R87). -/
def ringAddr (s : State) (p : Word) : Addr :=
  (inputEntry s).base + BitVec.ofNat 20 (expectedSlot (s.cap.offset.getD 0) p (inputSize s))

/-- The two fetches of a read position (R87). -/
def positionFetches (s : State) (p : Position) : List Addr :=
  [ringAddr s (wholePart p), ringAddr s (wholePart p + 1)]

/-- The fetches of a record after the hard check, in order (R87, R111). -/
def recordFetches (s : State) (r : VoiceRecord) : List Addr :=
  match r.p, r.xfade with
  | none, _ => []
  | some p, none => positionFetches s p
  | some p, some x => positionFetches s p ++ positionFetches s x.q

/-- The interpolated value of a position from its two samples, times 65,536 (R71 step 1). -/
def interpolate (a b : Int) (f : Nat) : Int := a * 65536 + (b - a) * f

/-- A fraction to the nearest whole number, an exact half away from zero (R71 step 4). -/
def roundAway (num : Int) (den : Nat) : Int :=
  if 0 ≤ num then (((2 * num.toNat + den) / (2 * den) : Nat) : Int)
  else -(((2 * (-num).toNat + den) / (2 * den) : Nat) : Int)

/-- The blended value of a record from the words fetched, as a numerator over 65,536 times the
denominator given beside it (R71 steps 1 and 2, R88). -/
def blend (format : Format) (r : VoiceRecord) (words : List Word) : Int × Nat :=
  let x (i : Nat) : Int := (sampleOf format (words.getD i 0)).toInt
  match r.p, r.xfade with
  | none, _ => (0, 1)
  | some p, none => (interpolate (x 0) (x 1) (fraction p), 1)
  | some p, some c =>
    (interpolate (x 0) (x 1) (fraction p) * ((c.length : Int) - c.k) +
      interpolate (x 2) (x 3) (fraction c.q) * c.k, c.length)

/-- The output value before its saturation: blended, weighted by gain and fade, rounded once (R71
steps 2 to 4). -/
def outputValue (format : Format) (gain xf : Nat) (r : VoiceRecord) (words : List Word) : Int :=
  let b := blend format r words
  roundAway (b.1 * gain * r.fade) (65536 * b.2 * 128 * xf)

/-! ### Step 3: advance (R64, R89) -/

/-- The positions advanced by the ratio and the crossfade moved (R89). -/
def advancePositions (r : VoiceRecord) : VoiceRecord :=
  let step : Position := BitVec.ofNat 48 r.ratio
  match r.xfade with
  | none => { r with p := r.p.map (· + step) }
  | some x =>
    if x.k < x.length then
      { r with p := r.p.map (· + step), xfade := some { x with q := x.q + step, k := x.k + 1 } }
    else { r with p := some (x.q + step), xfade := none }

/-- Whether a stream read ends a record's crossfade (R89). -/
def endsCrossfade (r : VoiceRecord) : Bool :=
  match r.xfade with
  | none => false
  | some x => decide (x.length ≤ x.k)

/-- The fade level moved by a stream read (R64). A voice can be ENTERING at XF, where it was switched off
and on again before a read: its fade stays in its range 0 to XF (R61), and it is SOUNDING, which R62 has
at XF (DEDUCED, notes/assumptions/35.md). One LEAVING at 0 ends its fade (notes/assumptions/31.md). -/
def fadeStep (xf : Nat) (r : VoiceRecord) : VoiceRecord :=
  match r.state with
  | .silent => r
  | .parked => r
  | .sounding => r
  | .entering =>
    { r with
      fade := min xf (r.fade + 1)
      state := if xf ≤ r.fade + 1 then .sounding else .entering }
  | .leaving =>
    if r.fade - 1 = 0 then
      { dropPositions r with state := if r.enable then .parked else .silent }
    else { r with fade := r.fade - 1 }

/-! ### Step 4: the soft check and the splices (R90 to R94) -/

/-- The two ways a splice goes. -/
inductive SpliceWay where
  | low | high
deriving DecidableEq, Repr

/-- The comparison of R90: a position's exact lag against the lag window, with the ratio. -/
def softNeed (s : State) (ratio : Nat) (p : Position) : Option SpliceWay :=
  if exactLag s.cap.c p < 65536 * (s.setup.active.general.lagLow.toNat : Int) ∧
      Config.unityRatio < ratio then some .low
  else if 65536 * (s.setup.active.general.lagHigh.toNat : Int) < exactLag s.cap.c p ∧
      ratio < Config.unityRatio then some .high
  else none

/-- The jump T: the splice period, or J, held to TMIN to TMAX (R91). -/
def jumpLength (g : General) (period : Option Nat) : Nat :=
  min g.tmax.toNat (max g.tmin.toNat (period.getD g.jump.toNat))

/-- A count divided by a step, rounded up. -/
def ceilDivide (x step : Nat) : Nat := (x + step - 1) / step

/-- The new grain of a splice: the fewest whole jumps that bring its exact lag to LAG_CENTER or past
it (R92). -/
def spliceTarget (s : State) (period : Option Nat) (way : SpliceWay) (p : Position) : Position :=
  let jump := 65536 * jumpLength s.setup.active.general period
  let excess := exactLag s.cap.c p - 65536 * (s.setup.active.general.lagCenter.toNat : Int)
  match way with
  | .low => p - BitVec.ofNat 48 (ceilDivide (-excess).toNat jump * jump)
  | .high => p + BitVec.ofNat 48 (ceilDivide excess.toNat jump * jump)

/-- A splice started from P (R92). -/
def startSplice (s : State) (period : Option Nat) (way : SpliceWay) (p : Position)
    (r : VoiceRecord) : VoiceRecord :=
  { r with
    xfade := some ⟨spliceTarget s period way p, 1, s.setup.active.general.xf.toNat⟩
    splicePending := false }

/-- The soft check of a steady voice (R90). -/
def softCheckSteady (s : State) (period : Option Nat) (p : Position) (r : VoiceRecord) :
    VoiceRecord :=
  match softNeed s r.ratio p with
  | some way => startSplice s period way p r
  | none => r

/-- A pending splice carried out as its crossfade ends, without the ratio test (R94). -/
def pendingSplice (s : State) (period : Option Nat) (p : Position) (r : VoiceRecord) :
    VoiceRecord :=
  let excess := exactLag s.cap.c p - 65536 * (s.setup.active.general.lagCenter.toNat : Int)
  if excess < 0 then startSplice s period .low p r
  else if 0 < excess then startSplice s period .high p r
  else { r with splicePending := false }

/-- The soft check on the voice as step 3 left it; not made where the fade has ended (R83, R90, R93,
R94). -/
def softCheck (s : State) (period : Option Nat) (ended : Bool) (r : VoiceRecord) : VoiceRecord :=
  match r.p, r.xfade with
  | none, _ => r
  | some _, some x =>
    match softNeed s r.ratio x.q with
    | some _ => { r with splicePending := true }
    | none => r
  | some p, none =>
    if ended && r.splicePending then pendingSplice s period p r else softCheckSteady s period p r

/-- Steps 3 and 4 of a stream read (R83). -/
def streamMoves (s : State) (period : Option Nat) (r : VoiceRecord) : VoiceRecord :=
  softCheck s period (endsCrossfade r)
    (fadeStep s.setup.active.general.xf.toNat (advancePositions r))

/-! ### A tap read in flight (R76, R104 to R108, R111, R114) -/

/-- Whether a read is a stream read: offsets 0 to 3 and 8 (R102). -/
def TapRead.isStream (r : TapRead) : Bool := decide (r.offset < 4 ∨ r.offset = 8)

/-- Whether a read is a mix read: offsets 8 and 9 (R102). -/
def TapRead.isMix (r : TapRead) : Bool := decide (8 ≤ r.offset)

/-- The detail of a read's CLIP (R72, R108). -/
def TapRead.clipDetail (r : TapRead) : Byte :=
  if r.offset < 4 then 1 else if r.offset < 8 then 2 else if r.offset = 8 then 3 else 4

/-- A CLIP of a read (R72, R108). -/
def clipEvent (r : TapRead) (voice : Option (Fin 4)) (value : Int) : Event :=
  ⟨.clip, r.clipDetail, voice, BitVec.ofInt 32 value, BitVec.ofNat 32 r.offset, r.stamp⟩

/-- The events of a voice's CLIPPED being set: one where it was clear (R72). -/
def clipEvents (r : TapRead) (v : Fin 4) (x : VoiceRecord) (value : Int) : List Event :=
  if x.clipped then [] else [clipEvent r (some v) value]

/-- The fetches the write post queue serves, from the next one on (R111, R150). -/
def serveQueued (queue : List QueueEntry) (words : List Word) (left : List Addr) :
    List Word × List Addr :=
  match left with
  | [] => (words, [])
  | a :: rest =>
    match forwarded queue a with
    | some d => serveQueued queue (words ++ [d]) rest
    | none => (words, a :: rest)

/-- A voice's work with the fetches the queue serves made. -/
def VoiceWork.served (queue : List QueueEntry) (w : VoiceWork) : VoiceWork :=
  { w with words := (serveQueued queue w.words w.left).1, left := (serveQueued queue w.words w.left).2 }

/-- A voice begun in a read: its hard check, and its first fetches (R83, R114). -/
def beginVoice (s : State) (r : TapRead) (v : Fin 4) : State × VoiceWork :=
  let checked := hardCheck s (voiceOf s v)
  (raiseEvents s (checked.2.map (hardSpliceEvent r v)),
    VoiceWork.served s.bus.queue ⟨v, checked.1, [], recordFetches s checked.1⟩)

/-- A voice's work with its last fetch returned: its output value joins the sum, its CLIPPED and its
moves its record (R71, R72, R83, R95). -/
def finishVoice (s : State) (r : TapRead) (w : VoiceWork) : State × TapRead :=
  let value := outputValue (inputFormat s) (voiceSetup s w.voice).gain.toNat
    s.setup.active.general.xf.toNat w.record w.words
  let clips := decide (saturate24 value ≠ value)
  let record := { w.record with clipped := w.record.clipped || clips }
  (raiseEvents s (if clips then clipEvents r w.voice w.record value else []),
    { r with
      work := none
      moved := r.moved ++
        [(w.voice, if r.isStream then streamMoves s r.period record else record)]
      total := r.total + saturate24 value })

/-- The voices still to do, each with a position begun in index order; a voice whose fetches the
queue serves whole is finished at once (R106, R111). -/
def runVoices (todo : List (Fin 4)) (s : State) (r : TapRead) : State × TapRead :=
  match todo with
  | [] => (s, { r with todo := [], work := none })
  | v :: rest =>
    match (voiceOf s v).p with
    | none => runVoices rest s r
    | some _ =>
      let begun := beginVoice s r v
      if begun.2.left.isEmpty then
        let finished := finishVoice begun.1 r begun.2
        runVoices rest finished.1 finished.2
      else (begun.1, { r with todo := rest, work := some begun.2 })

/-- The moved records applied at a read's completion (R76). -/
def applyMoves (s : State) (moved : List (Fin 4 × VoiceRecord)) : State :=
  moved.foldl (fun s m => setVoice s m.1 m.2) s

/-- The claims held back, taken in arrival order (R76, R113). -/
def applyClaims (s : State) (claims : List (Fin 4 × Claim)) : State :=
  claims.foldl (fun s c => takeClaim s c.1 c.2) s

/-- The format saturation of a voice read sets its voice's CLIPPED (R72). -/
def formatClip (s : State) (r : TapRead) : State × List (Fin 4 × VoiceRecord) :=
  if saturateFormat (inputFormat s) r.total = r.total then (s, r.moved)
  else
    (raiseEvents s (r.moved.flatMap (fun m => clipEvents r m.1 m.2 r.total)),
      r.moved.map (fun m => (m.1, { m.2 with clipped := true })))

/-- The saturation of a mix read's sum sets mix CLIPPED (R106, R108). -/
def mixClip (s : State) (r : TapRead) : State :=
  if saturateFormat (inputFormat s) (saturate24 r.total) = r.total then s
  else
    let s' := raiseEvents s (if s.vce.mixClipped then [] else [clipEvent r none r.total])
    { s' with vce := { s'.vce with mixClipped := true } }

/-- A read completes: its events, its word on PD, its moves, then the claims held for it. -/
def completeTap (s : State) (r : TapRead) : State :=
  if r.isMix then
    applyClaims (applyMoves
      (endCycle (mixClip s r)
        (some (sampleWord (inputFormat s) (saturateFormat (inputFormat s) (saturate24 r.total)))))
      r.moved) r.claims
  else
    applyClaims (applyMoves
      (endCycle (formatClip s r).1
        (some (sampleWord (inputFormat s) (saturateFormat (inputFormat s) r.total))))
      (formatClip s r).2) r.claims

/-- A read that has run as far as it can: complete, or held for its next fetch. -/
def settleTap (x : State × TapRead) : State :=
  match x.2.work with
  | none => completeTap x.1 x.2
  | some _ => { x.1 with bus := { x.1.bus with cycle := some (.tap x.2) } }

/-- A fetch returns its word to the read in flight (R111). -/
def continueTap (s : State) (r : TapRead) (word : Word) : State :=
  match r.work with
  | none => settleTap (s, r)
  | some w =>
    let w' := VoiceWork.served s.bus.queue { w with words := w.words ++ [word], left := w.left.drop 1 }
    if w'.left.isEmpty then
      let finished := finishVoice s r w'
      settleTap (runVoices r.todo finished.1 finished.2)
    else settleTap (s, { r with work := some w' })

/-- The voices a read at offsets 0 to 9 concerns (R76, R102). -/
def tapVoices (offset : Nat) : List (Fin 4) :=
  if 8 ≤ offset then [0, 1, 2, 3] else [Fin.ofNat 4 offset]

/-- A read at offsets 0 to 9 taken in RUNNING (R104 to R107). -/
def beginTap (s : State) (a : Addr) (offset : Nat) : State :=
  settleTap (runVoices (tapVoices offset) s
    ⟨a, offset, s.cap.count, s.trk.splicePeriod, [], none, [], 0, []⟩)

/-- A read at an offset that makes no fetch: its word, and the flags it clears (R33, R74, R102, R108,
R109, R11). -/
def statusRead (s : State) (offset : Nat) : State :=
  match offset with
  | 12 => clearVoiceFlags (endCycle s (some (voiceStatusWord (voiceOf s 0)))) 0
  | 13 => clearVoiceFlags (endCycle s (some (voiceStatusWord (voiceOf s 1)))) 1
  | 14 => clearVoiceFlags (endCycle s (some (voiceStatusWord (voiceOf s 2)))) 2
  | 15 => clearVoiceFlags (endCycle s (some (voiceStatusWord (voiceOf s 3)))) 3
  | 16 => clearTrackerFlags (endCycle s (some (trackerStatusWord s.trk)))
  | 17 => endCycle s (some (latestRecordWord s.trk))
  | 18 => clearMixFlag (endCycle s (some ((BitVec.ofBool s.vce.mixClipped).setWidth 32)))
  | 19 => endCycle s (some s.cap.c)
  | 20 => endCycle s (some s.cap.count)
  | _ => endCycle s (some 0)

/-- A tap read taken (R101, R102, R110). -/
def takeTap (s : State) (a : Addr) (offset : Nat) : State :=
  if 10 ≤ offset then statusRead s offset
  else
    match s.setup.engine with
    | .running => beginTap s a offset
    | .halted => endCycle s (some 0)
    | .idle => endCycle s (some 0)

end Sys2Proof.Machine
end

