-- ==== Sys2Proof/Machine/BusPath.lean ====
section
/-! DEFINITION. The Bus Path Unit (08): processor cycles, from their presentation to their taking. -/

namespace Sys2Proof.Machine

/-! ### Writes (R138, R144 to R149) -/

/-- The processor cycle held on PWAIT. -/
def holdCycle (s : State) (c : Cycle) : State := { s with bus := { s.bus with cycle := some c } }

/-- No processor cycle is held. -/
def releaseCycle (s : State) : State := { s with bus := { s.bus with cycle := none } }

/-- A write dropped by a window raises WINDOW_FAULT (R147). -/
def dropWrite (s : State) (r : Role) (a : Addr) (d : Word) : State :=
  raiseEvent s (eventNow s .windowFault r.code none (a.setWidth 32) d)

/-- A write into a setup area sets the shadow fields of its word (R156). -/
def takeSetupWord (s : State) (offset : Nat) (d : Word) : State :=
  { s with setup := { s.setup with shadow := setSetupWord offset d s.setup.shadow } }

/-- A write the control window decides, by its offset (R145). -/
def takeControlWrite (s : State) (offset : Nat) (a : Addr) (d : Word) : State :=
  if offset = 0 then takeCommand (postWrite s a d) d
  else if offset = 1 ∨ offset = 2 then dropWrite s .control a d
  else if isSetupOffset offset then takeSetupWord (postWrite s a d) offset d
  else postWrite s a d

/-- A write the INPUT window decides: posted, and in RUNNING offered to the Capture Unit (R1, R144). -/
def takeInputWrite (s : State) (slot : Nat) (a : Addr) (d : Word) : State :=
  match s.setup.engine with
  | .running => captureWrite (postWrite s a d) a slot (inputSize s) (sampleOf (inputFormat s) d)
  | .halted => postWrite s a d
  | .idle => postWrite s a d

/-- A write the REPORT window decides, by its offset (R146, R175). -/
def takeReportWrite (s : State) (offset : Nat) (a : Addr) (d : Word) : State :=
  if offset = 1 then
    if consumerTaken s d then takeConsumer (postWrite s a d) d
    else raiseEvent s (reportIndexEvent s d)
  else dropWrite s .report a d

/-- A write taken, by its classification at that moment (R138, R144). -/
def takeWrite (s : State) (place : Option (Role × Nat)) (a : Addr) (d : Word) : State :=
  match place with
  | none => postWrite s a d
  | some (.off, _) => postWrite s a d
  | some (.control, offset) => takeControlWrite s offset a d
  | some (.input, slot) => takeInputWrite s slot a d
  | some (.tap, _) => dropWrite s .tap a d
  | some (.report, offset) => takeReportWrite s offset a d
  | some (.protect, _) => dropWrite s .protect a d

/-- Whether a write, taken now, would join the queue. -/
def wouldPost (s : State) (place : Option (Role × Nat)) (d : Word) : Bool :=
  match place with
  | none => true
  | some (.off, _) => true
  | some (.control, offset) => decide (offset ≠ 1 ∧ offset ≠ 2)
  | some (.input, _) => true
  | some (.tap, _) => false
  | some (.report, offset) => decide (offset = 1) && consumerTaken s d
  | some (.protect, _) => false

/-- Whether a role's writes wait for a command in progress (R148). -/
def waitsForCommand (place : Option (Role × Nat)) : Bool :=
  match place with
  | some (.control, _) => true
  | some (.report, _) => true
  | _ => false

/-- A write presented, or presented afresh: held for a command, held for room, or taken (R138, R148,
R149). -/
def presentWrite (s : State) (a : Addr) (d : Word) : State :=
  let s := releaseCycle s
  let place := classify s a
  if s.setup.command.isSome && waitsForCommand place then holdCycle s (.writeForCommand a d)
  else if wouldPost s place d && queueFull s then holdCycle s (.writeForRoom a d)
  else takeWrite s place a d

/-! ### Reads (R138, R144, R150) -/

/-- A read that is no tap read: served from the queue, or held for its memory access (R150). -/
def memoryRead (s : State) (a : Addr) : State :=
  match forwarded s.bus.queue a with
  | some d => endCycle s (some d)
  | none => holdCycle s (.read a)

/-- A read taken, by its classification (R138, R144). -/
def presentRead (s : State) (a : Addr) : State :=
  match classify s a with
  | some (.tap, offset) => takeTap s a offset
  | _ => memoryRead s a

/-! ### A processor cycle (R138, R140) -/

/-- A processor cycle begins. A cycle that begins while RESET is low is held (R140); none can begin
while one is held (R138; notes/assumptions/6.md). -/
def processorCycle (inReset : Cycle) (present : State → State) (s : State) :
    Host.Outcome State Fault Refusal :=
  let s := beginStep s
  match s.bus.cycle with
  | some _ => .fault .processorCycleOverlap
  | none => if s.resetLow then .next (holdCycle s inReset) else .next (grant (present s))

/-- A processor write. -/
def processorWrite (a : Addr) (d : Word) (s : State) : Host.Outcome State Fault Refusal :=
  processorCycle (.writeInReset a d) (fun s => presentWrite s a d) s

/-- A processor read. -/
def processorReadCycle (a : Addr) (s : State) : Host.Outcome State Fault Refusal :=
  processorCycle (.readInReset a) (fun s => presentRead s a) s

/-- A processor write of a command word at offset 0 of the control window (R145, R162). -/
def commandWrite (code sequence : Byte) (upper : BitVec 16) (s : State) :
    Host.Outcome State Fault Refusal :=
  processorWrite (controlAddr s 0) (commandWord upper sequence code) s

/-! ### The meanings of the processor's rows -/

/-- START: the command word with code 1 (R162, R166). -/
def execStart (sequence : Byte) (upper : BitVec 16) (s : State) : Host.Outcome State Fault Refusal :=
  commandWrite 1 sequence upper s

/-- APPLY: the command word with code 2 (R162, R166). -/
def execApply (sequence : Byte) (upper : BitVec 16) (s : State) : Host.Outcome State Fault Refusal :=
  commandWrite 2 sequence upper s

/-- STOP: the command word with code 3 (R162, R166). -/
def execStop (sequence : Byte) (upper : BitVec 16) (s : State) : Host.Outcome State Fault Refusal :=
  commandWrite 3 sequence upper s

/-- RESTART: the command word with code 4 (R162, R166). -/
def execRestart (sequence : Byte) (upper : BitVec 16) (s : State) :
    Host.Outcome State Fault Refusal :=
  commandWrite 4 sequence upper s

/-- UNKNOWN_COMMAND: a command word, its code any (R166). -/
def execUnknownCommand (word : Word) (s : State) : Host.Outcome State Fault Refusal :=
  processorWrite (controlAddr s 0) word s

/-- SETUP_WRITE (R145, R156). -/
def execSetupWrite (a : Addr) (d : Word) (s : State) : Host.Outcome State Fault Refusal :=
  processorWrite a d s

/-- POSTED_WRITE (R144, R149). -/
def execPostedWrite (a : Addr) (d : Word) (s : State) : Host.Outcome State Fault Refusal :=
  processorWrite a d s

/-- WINDOW_FAULT (R147). -/
def execWindowFault (a : Addr) (d : Word) (s : State) : Host.Outcome State Fault Refusal :=
  processorWrite a d s

/-- CONSUMER_INDEX_WRITE (R146, R175). -/
def execConsumerIndexWrite (a : Addr) (d : Word) (s : State) : Host.Outcome State Fault Refusal :=
  processorWrite a d s

/-- CAPTURE (R1 to R7). -/
def execCapture (a : Addr) (d : Word) (s : State) : Host.Outcome State Fault Refusal :=
  processorWrite a d s

/-- WRITE_TAKEN_AFTER_ROOM (R149): the write held for room is classified again and taken. -/
def execWriteTakenAfterRoom (s : State) : Host.Outcome State Fault Refusal :=
  let s := beginStep s
  match s.bus.cycle with
  | some (.writeForRoom a d) =>
    if queueFull s then .next s else .next (grant (presentWrite s a d))
  | _ => .next s

/-- WRITE_TAKEN_AFTER_COMMAND (R148): the write held for a command is classified afresh and taken, or
waits on for room. -/
def execWriteTakenAfterCommand (s : State) : Host.Outcome State Fault Refusal :=
  let s := beginStep s
  match s.bus.cycle with
  | some (.writeForCommand a d) =>
    if s.setup.command.isSome then .next s else .next (grant (presentWrite s a d))
  | _ => .next s

/-- VOICE_STREAM_READ: a read at TAP offsets 0 to 3 (R104). -/
def execVoiceStreamRead (a : Addr) (s : State) : Host.Outcome State Fault Refusal :=
  processorReadCycle a s

/-- VOICE_PEEK_READ: a read at TAP offsets 4 to 7 (R105). -/
def execVoicePeekRead (a : Addr) (s : State) : Host.Outcome State Fault Refusal :=
  processorReadCycle a s

/-- MIX_STREAM_READ: a read at TAP offset 8 (R106). -/
def execMixStreamRead (a : Addr) (s : State) : Host.Outcome State Fault Refusal :=
  processorReadCycle a s

/-- MIX_PEEK_READ: a read at TAP offset 9 (R107). -/
def execMixPeekRead (a : Addr) (s : State) : Host.Outcome State Fault Refusal :=
  processorReadCycle a s

/-- VOICE_STATUS_READ: a read at TAP offsets 12 to 15 (R74). -/
def execVoiceStatusRead (a : Addr) (s : State) : Host.Outcome State Fault Refusal :=
  processorReadCycle a s

/-- TRACKER_STATUS_READ: a read at TAP offset 16 (R33). -/
def execTrackerStatusRead (a : Addr) (s : State) : Host.Outcome State Fault Refusal :=
  processorReadCycle a s

/-- MIX_STATUS_READ: a read at TAP offset 18 (R108). -/
def execMixStatusRead (a : Addr) (s : State) : Host.Outcome State Fault Refusal :=
  processorReadCycle a s

/-- PROCESSOR_READ (R144, R150). -/
def execProcessorRead (a : Addr) (s : State) : Host.Outcome State Fault Refusal :=
  processorReadCycle a s

end Sys2Proof.Machine
end

