-- ==== Sys2Proof/Machine/MemoryPort.lean ====
section
/-! DEFINITION. The memory port (08): what each access leaves as it completes. -/

namespace Sys2Proof.Machine

/-- An access completes at the port: `finish` says what it leaves, and none where the access in
progress is not the row's. A held write that can be taken goes first (notes/assumptions/7.md, 9.md). -/
def portStep (finish : Access → State → Option State) (s : State) :
    Host.Outcome State Fault Refusal :=
  let s := beginStep s
  match s.bus.port with
  | none => .next s
  | some x =>
    if heldWriteReady s then .next s
    else
      match finish x (freePort s) with
      | none => .next s
      | some t => .next (grant t)

/-- The word read ends the processor's read; nobody waits for it after a fall of RESET (R138, R140). -/
def finishProcessorRead (x : Access) (s : State) : Option State :=
  match x.kind with
  | .processorRead a => some (if x.live then endCycle s (some (loadWord s a)) else s)
  | _ => none

/-- A tap read that has completed leaves the port to a record that is ready (R174). -/
def afterTapFetch (s : State) : State :=
  match s.bus.cycle with
  | none => startReadyRecord s
  | some _ => s

/-- The word fetched goes to the tap read in flight (R111). -/
def finishTapFetch (x : Access) (s : State) : Option State :=
  match x.kind, s.bus.cycle with
  | .tapFetch a, some (.tap r) =>
    some (if x.live then afterTapFetch (continueTap s r (loadWord s a)) else s)
  | .tapFetch _, _ => some s
  | _, _ => none

/-- The oldest queue entry has reached memory and leaves the queue (R151). -/
def finishDrain (x : Access) (s : State) : Option State :=
  match x.kind with
  | .drain e =>
    let s' := storeWord s e.addr e.data
    some (if x.live then { s' with bus := { s'.bus with queue := s'.bus.queue.drop 1 } } else s')
  | _ => none

/-- A part write has reached memory; `owned` picks its owner's row, and `done` is what the owner makes
of its completion (R153). -/
def finishPartWrite (owned : PartOwner → Bool) (done : PartOwner → State → State) (x : Access)
    (s : State) : Option State :=
  match x.kind with
  | .partWrite w =>
    if owned w.owner then
      some (if x.live then done w.owner (storeWord s w.addr w.data) else storeWord s w.addr w.data)
    else none
  | _ => none

/-- A ring-reset word's request. -/
def PartOwner.isRingReset : PartOwner → Bool
  | .ringReset _ => true
  | _ => false

/-- A status word's request. -/
def PartOwner.isStatus : PartOwner → Bool
  | .status => true
  | _ => false

/-- A refusal word's request. -/
def PartOwner.isRefusal : PartOwner → Bool
  | .refusal => true
  | _ => false

/-- A record word's request. -/
def PartOwner.isRecord : PartOwner → Bool
  | .record _ => true
  | _ => false

/-- A producer index's request. -/
def PartOwner.isProducer : PartOwner → Bool
  | .producer => true
  | _ => false

/-- What the owner of a part write makes of its completion (R153, R163, R164, R165, R174). The CMD_DONE of a
status word and the end of a record can leave the next record ready, which starts before the grant
(R152, notes/assumptions/36.md). -/
def ownerDone (o : PartOwner) (s : State) : State :=
  match o with
  | .ringReset i => ringWordDone s i
  | .status => startReadyRecord (statusWordDone s)
  | .refusal => s
  | .record i => recordWordDone s i
  | .producer => startReadyRecord (producerDone s)

/-- PROCESSOR_READ_ACCESS (R138, R139). -/
def execProcessorReadAccess (s : State) : Host.Outcome State Fault Refusal :=
  portStep finishProcessorRead s

/-- TAP_FETCH (R111, R112). -/
def execTapFetch (s : State) : Host.Outcome State Fault Refusal := portStep finishTapFetch s

/-- DRAIN (R151). -/
def execDrain (s : State) : Host.Outcome State Fault Refusal := portStep finishDrain s

/-- RING_RESET_WORD (R163, R176). The status word that the last one requests is granted in the same step,
before a write held for the command is taken: the model's choice of an order that R154 leaves open
(notes/assumptions/37.md). -/
def execRingResetWord (s : State) : Host.Outcome State Fault Refusal :=
  portStep (finishPartWrite PartOwner.isRingReset ownerDone) s

/-- STATUS_WORD_WRITE (R164). -/
def execStatusWordWrite (s : State) : Host.Outcome State Fault Refusal :=
  portStep (finishPartWrite PartOwner.isStatus ownerDone) s

/-- REFUSAL_WORD_WRITE (R165). -/
def execRefusalWordWrite (s : State) : Host.Outcome State Fault Refusal :=
  portStep (finishPartWrite PartOwner.isRefusal ownerDone) s

/-- RECORD_WORD (R174). -/
def execRecordWord (s : State) : Host.Outcome State Fault Refusal :=
  portStep (finishPartWrite PartOwner.isRecord ownerDone) s

/-- PRODUCER_INDEX_WRITE (R174). -/
def execProducerIndexWrite (s : State) : Host.Outcome State Fault Refusal :=
  portStep (finishPartWrite PartOwner.isProducer ownerDone) s

end Sys2Proof.Machine
end

