-- ==== Sys2Proof/Machine/Reset.lean ====
section
/-! DEFINITION. Power-on reset (R140, R179): the fall and the rise of RESET. -/

namespace Sys2Proof.Machine

/-- A processor cycle in progress at the fall is held as one begun while RESET is low (R140). -/
def Cycle.abandoned (c : Cycle) : Cycle :=
  match c with
  | .read a => .readInReset a
  | .tap r => .readInReset r.addr
  | .writeForRoom a d => .writeInReset a d
  | .writeForCommand a d => .writeInReset a d
  | .readInReset a => .readInReset a
  | .writeInReset a d => .writeInReset a d

/-- The bus path at the fall: queue and requests dropped, the access in progress left to complete
without an owner, the cycle held (R140). -/
def BusPath.fallen (b : BusPath) : BusPath where
  queue := []
  port := b.port.map (fun x => { x with live := false })
  requests := []
  cycle := b.cycle.map Cycle.abandoned

/-- Every block at its power-on values; memory, the window map and the station number stay until the
rise (R140). The level of CUE is a pin's, not the part's, and stays (R118; notes/assumptions/21.md). -/
def fallen (s : State) : State :=
  { State.reset with
    pending := s.pending
    resetLow := true
    mem := s.mem
    map := s.map
    bus := s.bus.fallen
    crx := { State.reset.crx with station := s.crx.station, lineLow := s.crx.lineLow } }

/-- RESET_FALL (R140); RESET that is low already does not fall (notes/assumptions/27.md). -/
def execResetFall (s : State) : Host.Outcome State Fault Refusal :=
  let s := beginStep s
  if s.resetLow then .next s else .next (fallen s)

/-- The straps sampled and entry 0 placed (R140). -/
def risen (cwb : BitVec 4) (stn : BitVec 5) (s : State) : State :=
  { s with
    resetLow := false
    map := WindowMap.powerOn cwb
    crx := { s.crx with station := stn } }

/-- A cycle held in reset begins at the rise (R140). -/
def beginHeld (s : State) : State :=
  match s.bus.cycle with
  | some (.readInReset a) => presentRead (releaseCycle s) a
  | some (.writeInReset a d) => presentWrite s a d
  | _ => s

/-- RESET_RISE (R140). -/
def execResetRise (cwb : BitVec 4) (stn : BitVec 5) (s : State) :
    Host.Outcome State Fault Refusal :=
  let s := beginStep s
  if s.resetLow then .next (grant (beginHeld (risen cwb stn s))) else .next s

end Sys2Proof.Machine
end

