-- ==== Sys2Proof/Machine/Dispatch.lean ====
section
/-! DEFINITION. Every command's meaning: one arm per row of spec/opcode_table.json. -/

namespace Sys2Proof.Machine

/-- A command's effect on everything but the queue of pending commands. -/
def exec (i : Instr) (s : State) : Host.Outcome State Fault Refusal :=
  match i with
  | .resetFall => Sys2Proof.Machine.execResetFall s
  | .resetRise cwb stn => Sys2Proof.Machine.execResetRise cwb stn s
  | .start sequence upper => Sys2Proof.Machine.execStart sequence upper s
  | .apply sequence upper => Sys2Proof.Machine.execApply sequence upper s
  | .stop sequence upper => Sys2Proof.Machine.execStop sequence upper s
  | .restart sequence upper => Sys2Proof.Machine.execRestart sequence upper s
  | .unknownCommand word => Sys2Proof.Machine.execUnknownCommand word s
  | .commandCompletion => Sys2Proof.Machine.execCommandCompletion s
  | .setupWrite a d => Sys2Proof.Machine.execSetupWrite a d s
  | .postedWrite a d => Sys2Proof.Machine.execPostedWrite a d s
  | .windowFault a d => Sys2Proof.Machine.execWindowFault a d s
  | .writeTakenAfterRoom => Sys2Proof.Machine.execWriteTakenAfterRoom s
  | .writeTakenAfterCommand => Sys2Proof.Machine.execWriteTakenAfterCommand s
  | .consumerIndexWrite a d => Sys2Proof.Machine.execConsumerIndexWrite a d s
  | .capture a d => Sys2Proof.Machine.execCapture a d s
  | .analysisCompletion => Sys2Proof.Machine.execAnalysisCompletion s
  | .chord dest due root shape crcError => Sys2Proof.Machine.execChord dest due root shape crcError s
  | .key dest due root scale crcError => Sys2Proof.Machine.execKey dest due root scale crcError s
  | .voiceOn dest due mask crcError => Sys2Proof.Machine.execVoiceOn dest due mask crcError s
  | .voiceOff dest due mask crcError => Sys2Proof.Machine.execVoiceOff dest due mask crcError s
  | .voiceMode dest due voice mode parameter crcError => Sys2Proof.Machine.execVoiceMode dest due voice mode parameter crcError s
  | .hold dest due crcError => Sys2Proof.Machine.execHold dest due crcError s
  | .release dest due crcError => Sys2Proof.Machine.execRelease dest due crcError s
  | .timebase dest due count crcError => Sys2Proof.Machine.execTimebase dest due count crcError s
  | .clear dest due crcError => Sys2Proof.Machine.execClear dest due crcError s
  | .linkBadChar line => Sys2Proof.Machine.execLinkBadChar line s
  | .linkBreak => Sys2Proof.Machine.execLinkBreak s
  | .breakEnd => Sys2Proof.Machine.execBreakEnd s
  | .linkTruncated => Sys2Proof.Machine.execLinkTruncated s
  | .voiceStreamRead a => Sys2Proof.Machine.execVoiceStreamRead a s
  | .voicePeekRead a => Sys2Proof.Machine.execVoicePeekRead a s
  | .mixStreamRead a => Sys2Proof.Machine.execMixStreamRead a s
  | .mixPeekRead a => Sys2Proof.Machine.execMixPeekRead a s
  | .voiceStatusRead a => Sys2Proof.Machine.execVoiceStatusRead a s
  | .trackerStatusRead a => Sys2Proof.Machine.execTrackerStatusRead a s
  | .mixStatusRead a => Sys2Proof.Machine.execMixStatusRead a s
  | .processorRead a => Sys2Proof.Machine.execProcessorRead a s
  | .processorReadAccess => Sys2Proof.Machine.execProcessorReadAccess s
  | .tapFetch => Sys2Proof.Machine.execTapFetch s
  | .drain => Sys2Proof.Machine.execDrain s
  | .ringResetWord => Sys2Proof.Machine.execRingResetWord s
  | .statusWordWrite => Sys2Proof.Machine.execStatusWordWrite s
  | .refusalWordWrite => Sys2Proof.Machine.execRefusalWordWrite s
  | .reportRecordStart => Sys2Proof.Machine.execReportRecordStart s
  | .recordWord => Sys2Proof.Machine.execRecordWord s
  | .producerIndexWrite => Sys2Proof.Machine.execProducerIndexWrite s
  | .linkCharacterTaken signal => Sys2Proof.Machine.execLinkCharacterTaken signal s

end Sys2Proof.Machine
end

