-- ==== Sys2Proof/Safety.lean ====
section
/-! DEFINITION. The terms statements about the part use: when a cycle can begin, the invariants of the
machine, what the processor sees of a word, and the frames of its operations. -/

namespace Sys2Proof

/-! ### Rows by what they are -/

/-- Rows that are processor cycles (R138). -/
def Instr.isProcessorCycle (i : Instr) : Bool :=
  match i with
  | .start _ _ => true
  | .apply _ _ => true
  | .stop _ _ => true
  | .restart _ _ => true
  | .unknownCommand _ => true
  | .setupWrite _ _ => true
  | .postedWrite _ _ => true
  | .windowFault _ _ => true
  | .consumerIndexWrite _ _ => true
  | .capture _ _ => true
  | .voiceStreamRead _ => true
  | .voicePeekRead _ => true
  | .mixStreamRead _ => true
  | .mixPeekRead _ => true
  | .voiceStatusRead _ => true
  | .trackerStatusRead _ => true
  | .mixStatusRead _ => true
  | .processorRead _ => true
  | _ => false

/-- Rows that are the completion of a memory write (R139). -/
def Instr.isWriteCompletion (i : Instr) : Bool :=
  match i with
  | .drain => true
  | .ringResetWord => true
  | .statusWordWrite => true
  | .refusalWordWrite => true
  | .recordWord => true
  | .producerIndexWrite => true
  | _ => false

/-- The command word of a row that writes one (section 11.3): code in bits 0 to 7, sequence in bits 8
to 15. -/
def Instr.commandWord? (i : Instr) : Option Word :=
  match i with
  | .start sequence upper => some (upper ++ sequence ++ (1 : Byte))
  | .apply sequence upper => some (upper ++ sequence ++ (2 : Byte))
  | .stop sequence upper => some (upper ++ sequence ++ (3 : Byte))
  | .restart sequence upper => some (upper ++ sequence ++ (4 : Byte))
  | .unknownCommand word => some word
  | _ => none

/-- What a cue row puts on the link: address character, kind code, due, payload characters, and the
pattern by which the received CRC differs (section 7.3, section 11.6). -/
def Instr.cueMessage? (i : Instr) : Option (Byte × Byte × Due × List Byte × BitVec 16) :=
  match i with
  | .chord dest due root shape e => some (dest, 1, due, [root, shape], e)
  | .key dest due root scale e => some (dest, 2, due, [root, scale], e)
  | .voiceOn dest due mask e => some (dest, 3, due, [mask], e)
  | .voiceOff dest due mask e => some (dest, 4, due, [mask], e)
  | .voiceMode dest due voice mode parameter e => some (dest, 5, due, [voice, mode, parameter], e)
  | .hold dest due e => some (dest, 6, due, [], e)
  | .release dest due e => some (dest, 7, due, [], e)
  | .timebase dest due count e =>
    some (dest, 8, due, [count.extractLsb' 0 8, count.extractLsb' 8 8, count.extractLsb' 16 8,
      count.extractLsb' 24 8], e)
  | .clear dest due e => some (dest, 9, due, [], e)
  | _ => none

end Sys2Proof

namespace Sys2Proof.Machine

/-! ### When a processor cycle can begin -/

/-- No processor cycle is held and RESET is high. -/
def portFree (s : State) : Prop := s.bus.cycle = none ∧ s.resetLow = false

/-- The write post queue has room (R149). -/
def hasRoom (s : State) : Prop := s.bus.queue.length < 8

/-- The Setup Unit is at rest: no command in progress, no status word being written (R162). -/
def setupAtRest (s : State) : Prop := s.setup.command = none ∧ s.setup.status = none

/-- The commands that are ILLEGAL, by code and engine state (R166). -/
def illegalIn (code : Nat) (e : Engine) : Prop :=
  (code = 1 ∧ e = .running) ∨ (code = 2 ∧ e = .idle) ∨ (code = 3 ∧ e = .idle) ∨
    (code = 4 ∧ e ≠ .running) ∨ (code ≠ 1 ∧ code ≠ 2 ∧ code ≠ 3 ∧ code ≠ 4)

/-- The status word of a command that ended DONE (R164, section 11.3): result 1, reason and detail 0. -/
def doneWord (sequence : Byte) (e : Engine) : Word := 0#6 ++ e.code ++ 0#8 ++ 0#4 ++ 1#4 ++ sequence

/-! ### What validation asks of a setup -/

/-- A window entry is OFF, or its role and format are known, its size a power of two from 256 to 262,144,
its base a multiple of its size and its end in the address space (R143). -/
def windowLegal (e : WindowEntry) : Prop :=
  e.role.toNat = 0 ∨
    (e.role.toNat ≤ 4 ∧ (e.role.toNat = 1 → e.format.toNat ≤ 2) ∧
      (∃ k, 8 ≤ k ∧ k ≤ 18 ∧ e.size.toNat = 2 ^ k) ∧ e.base.toNat % e.size.toNat = 0 ∧
      e.base.toNat + e.size.toNat ≤ 1048576)

/-- Exactly one INPUT entry, of 4,096 to 65,536 words, at most one TAP and one REPORT entry (R143). -/
def rolesLegal (u : Setup) : Prop :=
  (∃ n : Fin 7, u.windows[n].role.toNat = 1 ∧ 4096 ≤ u.windows[n].size.toNat ∧
    u.windows[n].size.toNat ≤ 65536 ∧ ∀ m : Fin 7, u.windows[m].role.toNat = 1 → m = n) ∧
  ∀ n m : Fin 7, (u.windows[n].role.toNat = 2 ∨ u.windows[n].role.toNat = 3) →
    u.windows[m].role = u.windows[n].role → m = n

/-- Window entry 0 to 7 of a setup, entry 0 given. -/
def entryOf (entry0 : WindowEntry) (u : Setup) (n : Nat) : WindowEntry :=
  if n = 0 then entry0 else u.windows[n - 1]?.getD WindowEntry.off

/-- Entries `i` and `j`, each entry 0 or an INPUT, TAP or REPORT entry, share an address (R143). -/
def entriesOverlap (entry0 : WindowEntry) (u : Setup) (i j : Nat) : Prop :=
  let compared (n : Nat) : Prop := n = 0 ∨
    (n ≤ 7 ∧ 1 ≤ (entryOf entry0 u n).role.toNat ∧ (entryOf entry0 u n).role.toNat ≤ 3)
  i < j ∧ compared i ∧ compared j ∧
    (entryOf entry0 u i).base.toNat <
      (entryOf entry0 u j).base.toNat + (entryOf entry0 u j).size.toNat ∧
    (entryOf entry0 u j).base.toNat <
      (entryOf entry0 u i).base.toNat + (entryOf entry0 u i).size.toNat

/-- The fields that R157 marks TRACKER_RANGE are in their ranges. -/
def trackerLegal (g : General) : Prop :=
  (8000 ≤ g.sampleRate.toNat ∧ g.sampleRate.toNat ≤ 96000) ∧
  (16 ≤ g.tmin.toNat ∧ g.tmin.toNat < g.tmax.toNat ∧ g.tmax.toNat ≤ 1024) ∧
  1 ≤ g.diffThreshold.toNat ∧ g.silence.toNat ≤ 23 ∧
  (-100 ≤ g.tuning.toInt ∧ g.tuning.toInt ≤ 100) ∧ g.hysteresis.toNat ≤ 49 ∧
  (1 ≤ g.noteHold.toNat ∧ g.noteHold.toNat ≤ 8) ∧
  (1 ≤ g.unvoicedHold.toNat ∧ g.unvoicedHold.toNat ≤ 16)

/-- XF and the five inequalities hold, the last against the INPUT size (R98). -/
def lagLegal (g : General) (size : Nat) : Prop :=
  (32 ≤ g.xf.toNat ∧ g.xf.toNat ≤ 512) ∧ 8 + 3 * g.xf.toNat ≤ g.lagLow.toNat ∧
  g.lagLow.toNat + g.tmax.toNat ≤ g.lagCenter.toNat ∧
  g.lagCenter.toNat + g.tmax.toNat ≤ g.lagHigh.toNat ∧ g.lagHigh.toNat + g.xf.toNat + 64 ≤ size ∧
  (g.tmin.toNat ≤ g.jump.toNat ∧ g.jump.toNat ≤ g.tmax.toNat)

/-- A voice setup's mode is known and its fields in their ranges (R39, R158). -/
def voiceLegal (v : VoiceSetup) : Prop :=
  let m := v.mode.toNat
  let x := v.parameter.toInt
  ((m = 0 ∧ -7 ≤ x ∧ x ≤ 7) ∨ (m = 1 ∧ -4 ≤ x ∧ x ≤ 4) ∨ (m = 2 ∧ -24 ≤ x ∧ x ≤ 24) ∨
    (m = 3 ∧ 0 ≤ x)) ∧
  (-7 ≤ v.fallback.toInt ∧ v.fallback.toInt ≤ 7) ∧
  (v.lowNote.toNat ≤ v.highNote.toNat ∧ v.highNote.toNat ≤ 127) ∧
  (1 ≤ v.glide.toNat ∧ v.glide.toNat ≤ 2400)

/-- A REPORT entry's N, size and the attention trigger suit each other (R161, check 9). -/
def reportLegal (g : General) (e : WindowEntry) : Prop :=
  (∃ k, 4 ≤ k ∧ k ≤ 10 ∧ e.records.toNat = 2 ^ k) ∧ 16 + 4 * e.records.toNat ≤ e.size.toNat ∧
  1 ≤ g.trigger.toNat ∧ g.trigger.toNat + 1 ≤ e.records.toNat

/-! ### When a message is heard -/

/-- An address character names this part (R119): its station number 0 to 29, 32 plus its group 0 to 7,
or 255. -/
def namesPart (s : State) (value : Byte) : Prop :=
  (s.crx.station.toNat ≤ 29 ∧ value.toNat = s.crx.station.toNat) ∨
    (s.setup.active.general.group.toNat ≤ 7 ∧
      value.toNat = 32 + s.setup.active.general.group.toNat) ∨
    value.toNat = 255

/-- The receiver waits for a message, and one to `dest` is for this part. -/
def listening (s : State) (dest : Byte) : Prop := s.crx.state = .asleep ∧ namesPart s dest

/-- The divisor in force after a character that ends in ASLEEP: the active one from its fall on, unless
that fall had come before (R117). -/
def fallDivisor (s : State) : BitVec 12 :=
  if s.crx.lineLow then s.crx.divisor else s.setup.active.general.divisor

/-- The receiver after a message heard to its end: ASLEEP, its buffer empty, the line high, the divisor of
its address character's fall in force (R117, R120). -/
def heard (s : State) : Receiver :=
  { s.crx with
    state := .asleep
    divisor := fallDivisor s
    buffer := []
    timer := false
    lineLow := false }

/-- A CHORD message names a defined shape or no chord (R126 check 6); every other kind passes. -/
def shapeDefined (s : State) (kind : Byte) (payload : List Byte) : Prop :=
  kind = 1 → (payload.getD 1 0).toNat = 255 ∨ shapeMask s (payload.getD 1 0).toNat ≠ 0

/-- Payload character `i` of a kind lies in its range (R126, check 5). -/
def payloadLegal (kind : Byte) (payload : List Byte) (i : Nat) : Prop :=
  let c (n : Nat) : Byte := payload.getD n 0
  match kind.toNat, i with
  | 1, 0 => (c 0).toNat ≤ 11
  | 1, 1 => (c 1).toNat ≤ 15 ∨ (c 1).toNat = 255
  | 2, 0 => (c 0).toNat ≤ 11
  | 2, 1 => (c 1).toNat ≤ 7
  | 3, 0 => 1 ≤ (c 0).toNat ∧ (c 0).toNat ≤ 15
  | 4, 0 => 1 ≤ (c 0).toNat ∧ (c 0).toNat ≤ 15
  | 5, 0 => (c 0).toNat ≤ 3
  | 5, 1 => (c 1).toNat ≤ 3
  | 5, 2 => modeParameterOk (c 1) (c 2) = true
  | _, _ => True

/-- The eleven samples of a character that is taken: start bit low, data, address flag, stop bit high
(R116). -/
def charLine (flag : Bool) (value : Byte) : BitVec 11 :=
  1#1 ++ BitVec.ofBool flag ++ value ++ 0#1

/-- Characters taken one after another, each by its own LINK_CHARACTER_TAKEN. -/
def takenOneByOne (lines : List (BitVec 11)) (s : State) : Host.Outcome State Fault Refusal :=
  match lines with
  | [] => .next s
  | line :: rest =>
    match exec (.linkCharacterTaken (.samples line)) s with
    | .next t => takenOneByOne rest t
    | .fault f => .fault f
    | .refused r => .refused r

/-! ### What the processor sees of memory -/

/-- The word a processor read returns: the newest queued write, else memory (R150). -/
def visibleWord (s : State) (a : Addr) : Word := (forwarded s.bus.queue a).getD (loadWord s a)

/-- A part write is requested at the arbiter, or has been granted the port. -/
def partWriteMade (s : State) (w : PartWrite) : Prop :=
  w ∈ s.bus.requests ∨ s.bus.port = some ⟨.partWrite w, true⟩

/-! ### Invariants -/

/-- Entry 0 is the control window, placed at a multiple of 65,536 (R140, R141). -/
def controlPlaced (s : State) : Prop := ∃ cwb : BitVec 4, s.map.entry0 = WindowEntry.control cwb

/-- The assembly buffer is empty or holds the beginning of a message: an L of 2 to 9 and fewer than L + 3
characters (R120, section 7.3). -/
def Receiver.assembling (r : Receiver) : Prop :=
  r.buffer = [] ∨
    (2 ≤ (r.buffer.getD 0 0).toNat ∧ (r.buffer.getD 0 0).toNat ≤ 9 ∧
      r.buffer.length < (r.buffer.getD 0 0).toNat + 3)

/-- Every bounded store but the report ring is within its capacity, and at most one refusal write is
requested (R8, R15, R26, R120, R129, R149, R165, R172). -/
def withinCapacity (s : State) : Prop :=
  s.bus.queue.length ≤ 8 ∧ s.rpt.queue.length ≤ 8 ∧
    s.csc.atList.length + s.csc.onsetList.length ≤ 24 ∧ s.trk.history.length ≤ 8 ∧
    s.trk.buffer.length ≤ 2048 ∧ s.cap.fill ≤ 65536 ∧
    (s.bus.requests.filter (fun w => decide (w.owner = .refusal))).length ≤ 1 ∧
    s.crx.assembling

/-- A voice record agrees with its state: enable, positions, fade (R62). -/
def VoiceRecord.consistent (r : VoiceRecord) : Prop :=
  match r.state with
  | .silent => r.enable = false ∧ r.p = none ∧ r.xfade = none ∧ r.fade = 0 ∧ r.splicePending = false
  | .parked => r.enable = true ∧ r.p = none ∧ r.xfade = none ∧ r.fade = 0 ∧ r.splicePending = false
  | .entering => r.enable = true ∧ r.p ≠ none
  | .sounding => r.enable = true ∧ r.p ≠ none
  | .leaving => r.p ≠ none

/-- A tap read in flight works on consistent records. -/
def TapRead.consistent (r : TapRead) : Prop :=
  (∀ m ∈ r.moved, m.2.consistent) ∧
    ∀ w, r.work = some w → w.record.consistent ∧ w.record.p ≠ none

/-- All four records, and those of a tap read in flight, are consistent. -/
def voicesConsistent (s : State) : Prop :=
  (∀ v : Fin 4, (voiceOf s v).consistent) ∧ ∀ r, s.bus.cycle = some (.tap r) → r.consistent

/-- The access in progress is the one its owner waits for: a read the held cycle's, a fetch the next
of the tap read in flight, a drain the queue's oldest entry (R139, R151, R152). -/
def portOwned (s : State) : Prop :=
  ∀ x, s.bus.port = some x → x.live = true →
    match x.kind with
    | .processorRead a => s.bus.cycle = some (.read a)
    | .tapFetch a =>
      ∃ r w, s.bus.cycle = some (.tap r) ∧ r.work = some w ∧ w.left.head? = some a
    | .drain e => s.bus.queue.head? = some e
    | .partWrite _ => True

/-! ### Frames -/

/-- Nothing changes but PD and the bus path. -/
def busOnly (s t : State) : Prop := t = { s with pd := t.pd, bus := t.bus }

/-- Nothing changes but what a plan may touch: the planner, the voice records (or the claims held by a
tap read in flight) and the event queue. -/
def planOnly (s t : State) : Prop :=
  t = { s with
    pd := t.pd
    pln := t.pln
    vce := t.vce
    rpt := { s.rpt with queue := t.rpt.queue, lost := t.rpt.lost }
    bus := { s.bus with cycle := t.bus.cycle } }

/-- Nothing changes but the events taken by the Report Unit. -/
def eventsOnly (s t : State) : Prop :=
  t = { s with pd := t.pd, rpt := { s.rpt with queue := t.rpt.queue, lost := t.rpt.lost } }

end Sys2Proof.Machine
end

