-- ==== Sys2Proof/Certificates/Slice0/Obligations.lean ====
section
/-! DEFINITION. The statements about the GH-4V that are to be proved. -/

open Sys2Proof Sys2Proof.Machine

/-! ### The whole machine -/

/-- A step runs the command at the front of the queue on the state with the queue's rest; with an empty
queue the part idles (the model's own step, notes/assumptions/1.md). -/
def Obligations.StepRunsFrontCommand : Prop :=
  (∀ (c : Instr) (rest : List Instr) (s : State),
    s.pending = c :: rest → step s = exec c { s with pending := rest }) ∧
  ∀ s : State, s.pending = [] → step s = .next s

/-- With no processor cycle held, every command completes with a next state (R138: only a second cycle
cannot arrive). -/
def Obligations.CommandsComplete : Prop :=
  ∀ (i : Instr) (s : State), s.bus.cycle = none → ∃ t, exec i s = .next t

/-- Nothing is refused, and the only fault is a processor cycle given while one is held, which the spec
says cannot arrive (R138; notes/assumptions/6.md). -/
def Obligations.OnlyOverlapFaults : Prop :=
  ∀ (i : Instr) (s : State),
    (∀ r, exec i s ≠ .refused r) ∧
    (exec i s = .fault .processorCycleOverlap ↔
      i.isProcessorCycle = true ∧ s.bus.cycle ≠ none)

/-- No command touches the queue of commands still to be taken (the model's own queue,
notes/assumptions/1.md). -/
def Obligations.ExecKeepsPending : Prop :=
  ∀ (i : Instr) (s t : State), exec i s = .next t → t.pending = s.pending

/-- The state after power-on reset meets every invariant stated below. -/
def Obligations.ResetMeetsInvariants : Prop :=
  Memory.wf State.reset.mem = true ∧ controlPlaced State.reset ∧ withinCapacity State.reset ∧
    voicesConsistent State.reset ∧ portOwned State.reset

/-- Every step keeps memory in its canonical form. -/
def Obligations.MemoryCanonicalKept : Prop :=
  ∀ s t : State, Memory.wf s.mem = true → step s = .next t → Memory.wf t.mem = true

/-- Every step keeps these within their capacities: 8 posted writes (R149), 8 events (R172), 24 cues
(R129), 8 records (R26), 2,048 samples (R15), a fill of 65,536 (R8), at most one refusal write requested
(R165), and the assembly buffer, empty or the beginning of a message: an L of 2 to 9 and fewer than L + 3
characters, so never more than 12 (R120, section 7.3). The report ring is not among them: that a record
starts only below N - 1 unconsumed ones is said in RecordsAreWritten. -/
def Obligations.CapacitiesKept : Prop :=
  ∀ s t : State, withinCapacity s → step s = .next t → withinCapacity t

/-- Every step keeps entry 0 the control window, at a multiple of 65,536 (R141). -/
def Obligations.ControlWindowKept : Prop :=
  ∀ s t : State, controlPlaced s → step s = .next t → controlPlaced t

/-- Every step keeps the voice records consistent: a SILENT or PARKED voice has no read position, no
crossfade, fade 0 and no pending splice; SILENT has its enable clear, PARKED, ENTERING and SOUNDING
set; ENTERING, SOUNDING and LEAVING have a read position (R62). -/
def Obligations.VoiceStatesKept : Prop :=
  ∀ s t : State, voicesConsistent s → step s = .next t → voicesConsistent t

/-- Every step keeps the access in progress its owner's: a processor read is the held cycle's, a tap
fetch the next of the read in flight, a drain the oldest entry of the queue (R139, R151). -/
def Obligations.PortOwnersKept : Prop :=
  ∀ s t : State, portOwned s → step s = .next t → portOwned t

/-- The active setup and window entries 1 to 7 change only at the completion of a START or an APPLY,
and at power-on reset (R141, R160). -/
def Obligations.SetupChangesOnlyByCommand : Prop :=
  ∀ (i : Instr) (s t : State), exec i s = .next t →
    (t.setup.active = s.setup.active ∧ t.map.entries = s.map.entries) ∨
    i = .resetFall ∨ (∃ cwb stn, i = .resetRise cwb stn) ∨
    (i = .commandCompletion ∧
      ∃ c, s.setup.command = some c ∧ (c.code.toNat = 1 ∨ c.code.toNat = 2))

/-- While a tap read is in flight the capture state does not move and the write post queue gains no
entry, whatever arrives, but at a fall of RESET (R76, R112). -/
def Obligations.CaptureStillDuringTapRead : Prop :=
  ∀ (i : Instr) (s t : State) (r : TapRead),
    s.bus.cycle = some (.tap r) → i ≠ .resetFall → exec i s = .next t →
    t.cap.offset = s.cap.offset ∧ t.cap.c = s.cap.c ∧ t.cap.fill = s.cap.fill ∧
    (t.bus.queue = s.bus.queue ∨ t.bus.queue = s.bus.queue.drop 1)

/-- Memory changes only where a memory write completes at the port, and only in that write's word
(R139). -/
def Obligations.MemoryChangesOnlyAtPort : Prop :=
  ∀ (i : Instr) (s t : State), Memory.wf s.mem = true → exec i s = .next t →
    (∀ a : Addr, loadWord t a = loadWord s a) ∨
    (i.isWriteCompletion = true ∧ ∃ x d, s.bus.port = some x ∧ x.kind.onPort.2 = some d ∧
      loadWord t x.kind.onPort.1 = d ∧
      ∀ a : Addr, a ≠ x.kind.onPort.1 → loadWord t a = loadWord s a)

/-! ### Power-on reset -/

/-- The values of power-on reset: engine IDLE (R166), an empty bus path and entry 0 alone in the map
(R140), capture at its beginning (R12), an empty tracker (R35), voices SILENT (R80) and mix CLIPPED clear
(R115), the planner as R58 with the live modes of the voice setup defaults, receiver OFF (R118), empty
lists (R134), no event and hop counter 0 (R173, R177); the setup defaults (R157 to R159), and a START on
them fails with ROLE_COUNT (R158). -/
def Obligations.PowerOnState : Prop :=
  State.reset.setup.engine = .idle ∧ State.reset.setup.command = none ∧
  State.reset.setup.status = none ∧ State.reset.setup.shadow = State.reset.setup.active ∧
  State.reset.bus = ⟨[], none, [], none⟩ ∧
  (∀ e ∈ State.reset.map.entries.toList, Role.ofCode e.role = some .off) ∧
  Role.ofCode State.reset.map.entry0.role = some .control ∧
  State.reset.map.entry0.size.toNat = 1024 ∧
  State.reset.cap = ⟨none, 0, 0, 0⟩ ∧
  State.reset.trk = ⟨[], none, 0, [], none, 0, 0, false, false⟩ ∧
  (∀ v : Fin 4, voiceOf State.reset v =
    ⟨.silent, false, 0, none, none, false, none, 0, 65536, false, false⟩) ∧
  State.reset.vce.mixClipped = false ∧
  State.reset.pln.key = ⟨0, 0⟩ ∧ State.reset.pln.chord = none ∧ State.reset.pln.hold = false ∧
  State.reset.pln.deferredKey = none ∧ State.reset.pln.deferredChord = none ∧
  (∀ v : Fin 4, planOf State.reset v =
    ⟨false, false, ⟨.scale, [2, -2, 4, -3].getD v.val 0, [2, -2, 4, -3].getD v.val 0⟩, none, none,
      none, none⟩) ∧
  State.reset.crx.state = .off ∧ State.reset.crx.buffer = [] ∧ State.reset.crx.timer = false ∧
  State.reset.csc = ⟨[], []⟩ ∧
  State.reset.rpt.queue = [] ∧ State.reset.rpt.lost = false ∧ State.reset.rpt.hopCounter = 0 ∧
  attention State.reset = false ∧
  let g := State.reset.setup.active.general
  (g.sampleRate.toNat = 48000 ∧ g.tmin.toNat = 24 ∧ g.tmax.toNat = 600 ∧
    g.diffThreshold.toNat = 38 ∧ g.voicing.toNat = 160 ∧ g.silence.toNat = 12 ∧
    g.tuning.toInt = 0 ∧ g.hysteresis.toNat = 15 ∧ g.noteHold.toNat = 2 ∧
    g.unvoicedHold.toNat = 3 ∧ g.lagLow.toNat = 400 ∧ g.lagCenter.toNat = 1000 ∧
    g.lagHigh.toNat = 1600 ∧ g.xf.toNat = 128 ∧ g.jump.toNat = 480 ∧ g.keyRoot.toNat = 0 ∧
    g.keyScale.toNat = 0 ∧ g.divisor.toNat = 26 ∧ g.group.toNat = 255 ∧
    g.eventMask = 0x3FFFF ∧ g.urgentMask = 0x10090 ∧ g.trigger.toNat = 4 ∧
    g.timeout.toNat = 8) ∧
  (∀ v : Fin 4, let u := State.reset.setup.active.voices[v]
    u.startEnabled = false ∧ u.correct = false ∧ u.avoid = true ∧ u.mode = 0 ∧
    u.parameter.toInt = [2, -2, 4, -3].getD v.val 0 ∧
    u.fallback.toInt = [2, -2, 4, -3].getD v.val 0 ∧
    u.lowNote.toNat = 48 ∧ u.highNote.toNat = 84 ∧ u.gain.toNat = 128 ∧ u.glide.toNat = 100) ∧
  State.reset.setup.active.scales.toList =
    [0xAB5, 0x5AD, 0x9AD, 0x6AD, 0x6B5, 0x295, 0x4A9, 0xFFF] ∧
  State.reset.setup.active.shapes.toList =
    [0x091, 0x089, 0x049, 0x111, 0x0A1, 0x491, 0x891, 0x489, 0, 0, 0, 0, 0, 0, 0, 0] ∧
  validate State.reset.map.entry0 State.reset.setup.shadow = some ⟨.roleCount, 0⟩

/-- RESET_FALL: every block takes its power-on values, the write post queue and the requests are
dropped, the access in progress goes on, a held cycle is held as one begun in reset; memory, the
window map and the station number keep their values (R140). RESET has no effect on the access in
progress but that its owner no longer waits for it: whenever it completes, a write's word is in memory, no
other word changes, the port is free, and nothing is done for the owner, whichever it was (R140; DEDUCED,
notes/assumptions/19.md); while RESET is low the port then stays idle (R140). The level of CUE is the pin's
and stays (the model's reading, notes/assumptions/21.md). -/
def Obligations.ResetFallTakesPowerOnValues : Prop :=
  (∀ s : State, s.resetLow = false → ∃ t, exec .resetFall s = .next t ∧
    t.resetLow = true ∧ t.pd = none ∧ t.mem = s.mem ∧ t.map = s.map ∧
    t.crx = { State.reset.crx with station := s.crx.station, lineLow := s.crx.lineLow } ∧
    t.setup = State.reset.setup ∧ t.cap = State.reset.cap ∧ t.trk = State.reset.trk ∧
    t.pln = State.reset.pln ∧ t.vce = State.reset.vce ∧ t.csc = State.reset.csc ∧
    t.rpt = State.reset.rpt ∧ t.bus.queue = [] ∧ t.bus.requests = [] ∧
    t.bus.port = s.bus.port.map (fun x => { x with live := false }) ∧
    (s.bus.cycle = none → t.bus.cycle = none) ∧
    (∀ a, s.bus.cycle = some (.read a) → t.bus.cycle = some (.readInReset a)) ∧
    (∀ r, s.bus.cycle = some (.tap r) → t.bus.cycle = some (.readInReset r.addr)) ∧
    (∀ a d, s.bus.cycle = some (.writeForRoom a d) → t.bus.cycle = some (.writeInReset a d)) ∧
    (∀ a d, s.bus.cycle = some (.writeForCommand a d) → t.bus.cycle = some (.writeInReset a d))) ∧
  ∀ s : State, heldWriteReady s = false →
    let freed (m : Memory) : State :=
      { s with pd := none, mem := m, bus := { s.bus with port := none } }
    let ends (i : Instr) (t : State) (m : Memory) : Prop :=
      exec i s = .next t ∧ t = grant (freed m) ∧ (s.resetLow = true → t = freed m)
    let stores (i : Instr) (a : Addr) (d : Word) : Prop := Memory.wf s.mem = true →
      ∃ t, ends i t t.mem ∧ loadWord t a = d ∧ ∀ b : Addr, b ≠ a → loadWord t b = loadWord s b
    (∀ a, s.bus.port = some ⟨.processorRead a, false⟩ → ∃ t, ends .processorReadAccess t s.mem) ∧
    (∀ a, s.bus.port = some ⟨.tapFetch a, false⟩ → ∃ t, ends .tapFetch t s.mem) ∧
    (∀ e, s.bus.port = some ⟨.drain e, false⟩ → stores .drain e.addr e.data) ∧
    ∀ (o : PartOwner) (a : Addr) (d : Word), s.bus.port = some ⟨.partWrite ⟨o, a, d⟩, false⟩ →
      (∀ k, o = .ringReset k → stores .ringResetWord a d) ∧
      (o = .status → stores .statusWordWrite a d) ∧
      (o = .refusal → stores .refusalWordWrite a d) ∧
      (∀ k, o = .record k → stores .recordWord a d) ∧
      (o = .producer → stores .producerIndexWrite a d)

/-- RESET_RISE: the straps are sampled, entry 0 is CONTROL at CWB times 65,536 with 1,024 words, entries
1 to 7 are OFF; a cycle held in reset is carried out as one beginning at that moment (R140). The other
fields of an OFF entry are 0 (the model's choice, notes/assumptions/5.md). A processor cycle that begins
while RESET is low, by any of its rows, is held until then and changes nothing else (R140). -/
def Obligations.ResetRisePlacesControlWindow : Prop :=
  (∀ (s : State) (cwb : BitVec 4) (stn : BitVec 5), s.resetLow = true →
    let risen : State := { s with
      resetLow := false
      map := WindowMap.powerOn cwb
      crx := { s.crx with station := stn }
      bus := { s.bus with cycle := none } }
    (risen.map.entry0.base.toNat = cwb.toNat * 65536 ∧ risen.map.entry0.size.toNat = 1024 ∧
      Role.ofCode risen.map.entry0.role = some .control ∧
      ∀ e ∈ risen.map.entries.toList, Role.ofCode e.role = some .off) ∧
    (s.bus.cycle = none →
      exec (.resetRise cwb stn) s = .next (grant { risen with pd := none })) ∧
    (∀ a, s.bus.cycle = some (.readInReset a) →
      exec (.resetRise cwb stn) s = exec (.processorRead a) risen) ∧
    (∀ a d, s.bus.cycle = some (.writeInReset a d) →
      exec (.resetRise cwb stn) s = exec (.postedWrite a d) risen)) ∧
  ∀ s : State, s.resetLow = true → s.bus.cycle = none →
    let held (c : Cycle) : Host.Outcome State Fault Refusal :=
      .next { s with pd := none, bus := { s.bus with cycle := some c } }
    (∀ a : Addr, ∀ i ∈ [Instr.voiceStreamRead a, .voicePeekRead a, .mixStreamRead a, .mixPeekRead a,
        .voiceStatusRead a, .trackerStatusRead a, .mixStatusRead a, .processorRead a],
      exec i s = held (.readInReset a)) ∧
    (∀ (a : Addr) (d : Word), ∀ i ∈ [Instr.setupWrite a d, .postedWrite a d, .windowFault a d,
        .consumerIndexWrite a d, .capture a d],
      exec i s = held (.writeInReset a d)) ∧
    ∀ (i : Instr) (d : Word), i.commandWord? = some d →
      exec i s = held (.writeInReset s.map.entry0.base d)

/-! ### Commands (09) -/

/-- A command word taken by a Setup Unit at rest whose command has effects: the flag is set, nothing is
done yet, and the word is posted. START needs IDLE or HALTED and a valid shadow setup, APPLY RUNNING
or HALTED and a valid one, STOP RUNNING or HALTED, RESTART RUNNING (R145, R162, R166). The command waits
for the report ring exactly where it will reset or remove it: a START with a REPORT entry in the new
setup or the map, an APPLY whose REPORT window changes (R163, R167, R170). That a STOP in HALTED, which
changes nothing, sets the flag and completes later too is the model's reading
(notes/assumptions/25.md). -/
def Obligations.CommandWithEffectsTaken : Prop :=
  ∀ (i : Instr) (d : Word) (s : State), i.commandWord? = some d →
    portFree s → controlPlaced s → hasRoom s → setupAtRest s →
    ((wordCode d).toNat = 1 ∧ s.setup.engine ≠ .running ∧
        validate s.map.entry0 s.setup.shadow = none) ∨
      ((wordCode d).toNat = 2 ∧ s.setup.engine ≠ .idle ∧
        validate s.map.entry0 s.setup.shadow = none) ∨
      ((wordCode d).toNat = 3 ∧ s.setup.engine ≠ .idle) ∨
      ((wordCode d).toNat = 4 ∧ s.setup.engine = .running) →
    let holdsReport (es : Vector WindowEntry 7) : Prop :=
      ∃ n : Fin 7, Role.ofCode es[n].role = some .report
    let reportWindow (es : Vector WindowEntry 7) : Option (BitVec 20 × BitVec 32 × BitVec 32) :=
      (findRole es .report).map (fun e => (e.base, e.size, e.records))
    ∃ t touches, exec i s = .next t ∧
      (touches = true ↔
        ((wordCode d).toNat = 1 ∧
            (holdsReport s.setup.shadow.windows ∨ holdsReport s.map.entries)) ∨
          ((wordCode d).toNat = 2 ∧
            reportWindow s.map.entries ≠ reportWindow s.setup.shadow.windows)) ∧
      t = grant { s with
        pd := none
        setup := { s.setup with
          command := some ⟨d.extractLsb' 0 8, d.extractLsb' 8 8, touches, false⟩ }
        bus := { s.bus with queue := s.bus.queue ++ [⟨s.map.entry0.base, d⟩] } }

/-- A command word taken by a Setup Unit at rest that has no effect: ILLEGAL by the table of R166, or
REJECTED with the reason and detail of the first failing check. The flag is left clear, the status
word is requested with the engine state unchanged, and nothing else changes but the word's posting
(R161, R163, R164, R166). That this happens in the step that takes the word is the model's choice of
moment (notes/assumptions/8.md). Validation makes the nine checks in order and gives the first failure's
reason and detail, or passes: the windows and roles (R143), the overlaps (R143; the first pair as
notes/assumptions/16.md), the tracker's fields (R157), the lags (R98), the voice setups (R158), the key
and the tables (R159), the link, and the report ring (R161). -/
def Obligations.CommandWithoutEffects : Prop :=
  (∀ (i : Instr) (d : Word) (s : State), i.commandWord? = some d →
    portFree s → controlPlaced s → hasRoom s → setupAtRest s →
    let ends (result : CommandResult) (reason : Reason) (detail : Byte) : Prop :=
      exec i s = .next (grant { s with
        pd := none
        setup := { s.setup with
          status := some ⟨d.extractLsb' 8 8, d.extractLsb' 0 8, result, reason, detail⟩ }
        bus := { s.bus with
          queue := s.bus.queue ++ [⟨s.map.entry0.base, d⟩]
          requests := s.bus.requests ++ [⟨.status, s.map.entry0.base + 1,
            0#6 ++ s.setup.engine.code ++ detail ++ reason.code ++ result.code ++
              d.extractLsb' 8 8⟩] } })
    (illegalIn (wordCode d).toNat s.setup.engine → ends .illegal .none 0) ∧
    (∀ f, validate s.map.entry0 s.setup.shadow = some f →
      ((wordCode d).toNat = 1 ∧ s.setup.engine ≠ .running) ∨
        ((wordCode d).toNat = 2 ∧ s.setup.engine ≠ .idle) →
      ends .rejected f.reason f.detail)) ∧
  ∀ (entry0 : WindowEntry) (u : Setup),
    let g := u.general
    let fails (reason : Reason) (detail : Nat) : Prop :=
      validate entry0 u = some ⟨reason, BitVec.ofNat 8 detail⟩
    (∀ n : Fin 7, ¬ windowLegal u.windows[n] → (∀ m < n, windowLegal u.windows[m]) →
      fails .badWindow (n.val + 1)) ∧
    ((∀ n : Fin 7, windowLegal u.windows[n]) →
      (¬ rolesLegal u → fails .roleCount 0) ∧
      ∀ input : Fin 7, rolesLegal u → u.windows[input].role.toNat = 1 →
        (∀ i j, entriesOverlap entry0 u i j →
          (∀ k l, entriesOverlap entry0 u k l → i < k ∨ (i = k ∧ j ≤ l)) → fails .overlap j) ∧
        ((∀ i j, ¬ entriesOverlap entry0 u i j) →
          (¬ trackerLegal g → fails .trackerRange 0) ∧
          (trackerLegal g →
            (¬ lagLegal g u.windows[input].size.toNat → fails .lagRange 0) ∧
            (lagLegal g u.windows[input].size.toNat →
              (∀ v : Fin 4, ¬ voiceLegal u.voices[v] → (∀ w < v, voiceLegal u.voices[w]) →
                fails .voiceField v.val) ∧
              ((∀ v : Fin 4, voiceLegal u.voices[v]) →
                (11 < g.keyRoot.toNat → fails .table 255) ∧
                (g.keyRoot.toNat ≤ 11 →
                  (∀ n : Fin 8, u.scales[n].getLsbD 0 = false →
                    (∀ m < n, u.scales[m].getLsbD 0 = true) → fails .table n.val) ∧
                  ((∀ n : Fin 8, u.scales[n].getLsbD 0 = true) →
                    (∀ n : Fin 16, u.shapes[n] ≠ 0 → u.shapes[n].getLsbD 0 = false →
                      (∀ m < n, u.shapes[m] = 0 ∨ u.shapes[m].getLsbD 0 = true) →
                      fails .table (16 + n.val)) ∧
                    ((∀ n : Fin 16, u.shapes[n] = 0 ∨ u.shapes[n].getLsbD 0 = true) →
                      let link : Prop :=
                        1 ≤ g.divisor.toNat ∧ (g.group.toNat ≤ 7 ∨ g.group.toNat = 255)
                      (¬ link → fails .linkRate 0) ∧
                      (link →
                        (∀ n : Fin 7, u.windows[n].role.toNat = 3 →
                          ¬ reportLegal g u.windows[n] → fails .reportSize (n.val + 1)) ∧
                        ((∀ n : Fin 7, u.windows[n].role.toNat = 3 →
                          reportLegal g u.windows[n]) → validate entry0 u = none))))))))))

/-- A command word taken while the previous status word is being written is refused as busy: it is
posted, and a refusal word with its sequence and code is requested behind the requests that stand, the
previous status word among them, or takes the place of the refusal word still requested. Every other
request is kept, and nothing else changes (R162, R165). At most one refusal write is requested at a time
(CapacitiesKept). -/
def Obligations.CommandRefusedAsBusy : Prop :=
  ∀ (i : Instr) (d : Word) (s : State), i.commandWord? = some d →
    portFree s → controlPlaced s → hasRoom s → s.setup.command = none → s.setup.status ≠ none →
    let refusal : PartWrite := ⟨.refusal, s.map.entry0.base + 2,
      0#16 ++ d.extractLsb' 0 8 ++ d.extractLsb' 8 8⟩
    let refused (requests : List PartWrite) : State := grant { s with
      pd := none
      bus := { s.bus with
        queue := s.bus.queue ++ [⟨s.map.entry0.base, d⟩], requests := requests } }
    ((∀ w ∈ s.bus.requests, w.owner ≠ .refusal) →
      exec i s = .next (refused (s.bus.requests ++ [refusal]))) ∧
    ∀ before old after, s.bus.requests = before ++ old :: after → old.owner = .refusal →
      (∀ w ∈ before ++ after, w.owner ≠ .refusal) →
      exec i s = .next (refused (before ++ refusal :: after))

/-- When a command with effects completes (R163): not while a tap read is in flight, nor, where it
touches the ring, while a record is in flight, nor before a held write that can be taken; until then
COMMAND_COMPLETION changes nothing (notes/assumptions/7.md, 9.md). -/
def Obligations.CompletionWaits : Prop :=
  ∀ (s : State) (c : Command), s.setup.command = some c →
    ((canComplete s c = true ↔ c.completed = false ∧ (∀ r, s.bus.cycle ≠ some (.tap r)) ∧
      (c.touchesRing = true → s.rpt.record = none) ∧ heldWriteReady s = false) ∧
    (canComplete s c = false → exec .commandCompletion s = .next { s with pd := none }))

/-- The completion of START. The setup is copied and the engine is RUNNING; the event queue is emptied and
the lost flag cleared; capture, tracker, lists, voices, planner and receiver are at their beginning, the
live modes those of the active setup; then the planner re-plans, and any VOICE_RANGE of that goes into the
emptied queue (R39, R58, R78, R115, R118, R160, R167, R173, R176, R177). With a REPORT entry the ring-reset
words are requested and the flag stays set; without one the flag clears and the status word DONE is
requested, with the engine RUNNING (R163, R164). The model's choices: the divisor comes into force at once
in IN_BREAK too (notes/assumptions/13.md), and p, c and the ring's mark are cleared where the setup has no
REPORT entry too (20.md). -/
def Obligations.StartCompletes : Prop :=
  ∀ (s : State) (c : Command), s.setup.command = some c → canComplete s c = true →
    c.code.toNat = 1 →
    let u := s.setup.shadow
    let live (x : VoiceSetup) : LiveMode :=
      ⟨(Mode.ofCode x.mode.toNat).getD .scale, x.parameter.toInt, x.fallback.toInt⟩
    ∃ begun t, exec .commandCompletion s = .next t ∧
      begun = { s with
        pd := none
        setup := { s.setup with active := u, engine := .running }
        map := { s.map with entries := u.windows }
        cap := ⟨none, 0, 0, 0⟩
        trk := { s.trk with
          buffer := [], history := [], sung := none, outside := 0, unvoiced := 0,
          generation := s.trk.generation + 1, newRecord := false, skipped := false }
        csc := ⟨[], []⟩
        vce := ⟨begun.vce.voices, false⟩
        pln := ⟨⟨u.general.keyRoot.toNat, u.general.keyScale.toNat⟩, none, false, none, none,
          begun.pln.voices⟩
        rpt := { s.rpt with
          queue := [], lost := false, producer := 0, consumer := 0, unconsumed := [],
          hopCounter := 0, ringWritten := false } } ∧
      (∀ v : Fin 4, voiceOf begun v =
        ⟨if u.voices[v].startEnabled then .parked else .silent, u.voices[v].startEnabled, 0, none,
          none, false, none, 0, 65536, false, false⟩) ∧
      (∀ v : Fin 4, planOf begun v =
        ⟨u.voices[v].startEnabled, false, live u.voices[v], none, none, none, none⟩) ∧
      (let planned : State := { replanAll begun with
          crx := (if s.crx.state = .inBreak then { s.crx with divisor := u.general.divisor }
            else { s.crx with
              state := .asleep, divisor := u.general.divisor, buffer := [], timer := false }) };
        (reportEntry begun = none → t = grant { planned with
          setup := { s.setup with
            active := u, engine := .running, command := none,
            status := some ⟨c.sequence, c.code, .done, .none, 0⟩ }
          bus := { s.bus with requests := s.bus.requests ++
            [⟨.status, s.map.entry0.base + 1, doneWord c.sequence .running⟩] } }) ∧
        ∀ e, reportEntry begun = some e → t = grant { planned with
          setup := { s.setup with
            active := u, engine := .running, command := some { c with completed := true } }
          bus := { s.bus with requests := s.bus.requests ++
            [⟨.ringReset 0, e.base, 0⟩, ⟨.ringReset 1, e.base + 1, 0⟩,
              ⟨.ringReset 2, e.base + 2, 0#21 ++ BitVec.ofNat 11 e.records.toNat⟩] } }) ∧
      attention t = false ∧ t.vce = begun.vce ∧
      ∀ v : Fin 4, (planOf t v).enable = u.voices[v].startEnabled ∧
        (planOf t v).live = live u.voices[v] ∧ (planOf t v).deferredMode = none

/-- The completion of STOP: in RUNNING the engine is HALTED, every voice SILENT at once, both lists are
empty, the tracker is cleared and the planner's enables and targets are cleared; the capture values,
the setup, the map, the ring, its event queue and the receiver are kept (R13, R60, R79, R168). In
HALTED nothing changes (R166); that such a STOP completes here, and not with its taking, is the model's
reading (notes/assumptions/25.md). Either way the flag clears and the status word DONE is requested, with
the engine HALTED (R163, R164). -/
def Obligations.StopCompletes : Prop :=
  ∀ (s : State) (c : Command), s.setup.command = some c → canComplete s c = true →
    c.code.toNat = 3 →
    let ended (t : State) : State := grant { t with
      pd := none
      setup := { s.setup with
        command := none, engine := .halted,
        status := some ⟨c.sequence, c.code, .done, .none, 0⟩ }
      bus := { s.bus with requests := s.bus.requests ++
        [⟨.status, s.map.entry0.base + 1, doneWord c.sequence .halted⟩] } }
    (s.setup.engine = .running → ∃ stopped, exec .commandCompletion s = .next (ended stopped) ∧
      stopped = { s with
        csc := ⟨[], []⟩
        trk := { s.trk with
          buffer := [], history := [], sung := none, outside := 0, unvoiced := 0,
          generation := s.trk.generation + 1 }
        vce := { s.vce with voices := stopped.vce.voices }
        pln := { s.pln with voices := stopped.pln.voices } } ∧
      (∀ v : Fin 4, voiceOf stopped v =
        ⟨.silent, false, 0, none, none, false, none, 0, 65536, (voiceOf s v).clipped,
          (voiceOf s v).targetChanged⟩) ∧
      ∀ v : Fin 4, planOf stopped v = { planOf s v with
        enable := false, newlyEnabled := false, note := none, shift := none, handed := none }) ∧
    (s.setup.engine = .halted → exec .commandCompletion s = .next (ended s))

/-- The completion of RESTART in RUNNING: capture, tracker, lists, voices, planner and receiver at their
beginning, as at a START, the live modes those of the active setup; then the planner re-plans. The voices'
and the tracker's flags and mix CLIPPED, the setup, the map, the report ring, its event queue (to which
the re-plan may add a VOICE_RANGE) and the engine state are kept (R36, R39, R58, R78, R115, R118, R169).
The flag clears and the status word DONE is requested, with the engine RUNNING (R163, R164). The divisor
comes into force at once in IN_BREAK too (the model's reading, notes/assumptions/13.md). -/
def Obligations.RestartCompletes : Prop :=
  ∀ (s : State) (c : Command), s.setup.command = some c → canComplete s c = true →
    c.code.toNat = 4 →
    let u := s.setup.active
    let live (x : VoiceSetup) : LiveMode :=
      ⟨(Mode.ofCode x.mode.toNat).getD .scale, x.parameter.toInt, x.fallback.toInt⟩
    ∃ begun t, exec .commandCompletion s = .next t ∧
      begun = { s with
        pd := none
        cap := ⟨none, 0, 0, 0⟩
        trk := { s.trk with
          buffer := [], history := [], sung := none, outside := 0, unvoiced := 0,
          generation := s.trk.generation + 1 }
        csc := ⟨[], []⟩
        vce := { s.vce with voices := begun.vce.voices }
        pln := ⟨⟨u.general.keyRoot.toNat, u.general.keyScale.toNat⟩, none, false, none, none,
          begun.pln.voices⟩ } ∧
      (∀ v : Fin 4, voiceOf begun v =
        ⟨if u.voices[v].startEnabled then .parked else .silent, u.voices[v].startEnabled, 0, none,
          none, false, none, 0, 65536, (voiceOf s v).clipped, (voiceOf s v).targetChanged⟩) ∧
      (∀ v : Fin 4, planOf begun v =
        ⟨u.voices[v].startEnabled, false, live u.voices[v], none, none, none, none⟩) ∧
      t = grant { replanAll begun with
        crx := (if s.crx.state = .inBreak then { s.crx with divisor := u.general.divisor }
          else { s.crx with
            state := .asleep, divisor := u.general.divisor, buffer := [], timer := false })
        setup := { s.setup with
          command := none, status := some ⟨c.sequence, c.code, .done, .none, 0⟩ }
        bus := { s.bus with requests := s.bus.requests ++
          [⟨.status, s.map.entry0.base + 1, doneWord c.sequence s.setup.engine⟩] } } ∧
      t.vce = begun.vce ∧
      (∀ v : Fin 4, (planOf t v).enable = u.voices[v].startEnabled ∧
        (planOf t v).live = live u.voices[v] ∧ (planOf t v).deferredMode = none) ∧
      t.rpt = { s.rpt with queue := t.rpt.queue, lost := t.rpt.lost } ∧
      ∃ raised, t.rpt.queue = s.rpt.queue ++ raised ∧ ∀ e ∈ raised, e.kind = .voiceRange

/-- The completion of APPLY: the setup is copied. In RUNNING a changed INPUT window restarts capture,
clears the tracker, parks the voices and raises CAPTURE_RESTART, detail APPLY (R14, R19, R75), and else all
these are kept (R35). The ring is kept, reset or removed by the change of the REPORT window; the event queue
and the lost flag are kept but where it is removed (R170, R173, R176). That p, c and the ring's mark are
cleared where it is removed too is the model's choice (notes/assumptions/20.md). The live modes are copied, the
deferred ones discarded, and the planner re-plans (R59). Where XF changes, the fades are brought to it
(R77). In HALTED the copy, the ring and the modes are all. The key, chord, hold flag, enables, count, lists,
engine and receiver are kept. Then the flag clears and the status word DONE is requested with the engine
state, or, where the ring is reset, its three words are, and the flag stays set (R163, R164). -/
def Obligations.ApplyCompletes : Prop :=
  ∀ (s : State) (c : Command), s.setup.command = some c → canComplete s c = true →
    c.code.toNat = 2 → s.setup.engine ≠ .idle →
    let u := s.setup.shadow
    let inputWindow (es : Vector WindowEntry 7) : Option (BitVec 20 × BitVec 32 × BitVec 4) :=
      (findRole es .input).map (fun e => (e.base, e.size, e.format))
    let reportWindow (es : Vector WindowEntry 7) : Option (BitVec 20 × BitVec 32 × BitVec 32) :=
      (findRole es .report).map (fun e => (e.base, e.size, e.records))
    let parkedOf (r : VoiceRecord) : VoiceRecord :=
      if r.state = .silent ∨ r.state = .parked then r
      else { r with
        fade := 0, p := none, xfade := none, splicePending := false,
        state := if r.state = .leaving ∧ r.enable = false then .silent else .parked }
    let fitted (r : VoiceRecord) : VoiceRecord :=
      let xf := u.general.xf.toNat
      match r.state with
      | .silent => r
      | .parked => r
      | .sounding => { r with fade := xf }
      | .entering =>
        { r with fade := min r.fade xf, state := if xf ≤ r.fade then .sounding else .entering }
      | .leaving => { r with fade := min r.fade xf }
    let copied : State := { s with
      pd := none
      setup := { s.setup with active := u }
      map := { s.map with entries := u.windows } }
    let ringed (t : State) : State :=
      if reportWindow s.map.entries = reportWindow u.windows then t
      else { t with rpt := { t.rpt with
        producer := 0, consumer := 0, unconsumed := [], ringWritten := false,
        queue := if (reportWindow u.windows).isSome then t.rpt.queue else [],
        lost := if (reportWindow u.windows).isSome then t.rpt.lost else false } }
    ∃ parked captured moded fades t, exec .commandCompletion s = .next t ∧
      parked = { copied with
        cap := { s.cap with offset := none, c := 0, fill := 0 }
        trk := { s.trk with
          buffer := [], history := [], sung := none, outside := 0, unvoiced := 0,
          generation := s.trk.generation + 1 }
        vce := { s.vce with voices := parked.vce.voices } } ∧
      (∀ v : Fin 4, voiceOf parked v = parkedOf (voiceOf s v)) ∧
      captured = (if s.setup.engine = .running ∧
          inputWindow s.map.entries ≠ inputWindow u.windows then
        raiseEvent parked ⟨.captureRestart, 2, none, 0, 0, s.cap.count⟩ else copied) ∧
      moded = { ringed captured with pln := { s.pln with voices := moded.pln.voices } } ∧
      (∀ v : Fin 4, planOf moded v = { planOf s v with
        live := ⟨(Mode.ofCode u.voices[v].mode.toNat).getD .scale, u.voices[v].parameter.toInt,
          u.voices[v].fallback.toInt⟩
        deferredMode := none }) ∧
      (let planned : State := if s.setup.engine = .running then replanAll moded else moded;
        fades = { planned with vce := { planned.vce with voices := fades.vce.voices } } ∧
        ∀ v : Fin 4, voiceOf fades v =
          (if s.setup.engine = .running ∧ s.setup.active.general.xf ≠ u.general.xf then
            fitted (voiceOf planned v) else voiceOf planned v)) ∧
      (reportWindow s.map.entries = reportWindow u.windows ∨ reportWindow u.windows = none →
        t = grant { fades with
          setup := { s.setup with
            active := u, command := none,
            status := some ⟨c.sequence, c.code, .done, .none, 0⟩ }
          bus := { s.bus with requests := s.bus.requests ++
            [⟨.status, s.map.entry0.base + 1, doneWord c.sequence s.setup.engine⟩] } }) ∧
      (∀ e, reportWindow s.map.entries ≠ reportWindow u.windows →
        findRole u.windows .report = some e →
        t = grant { fades with
          setup := { s.setup with active := u, command := some { c with completed := true } }
          bus := { s.bus with requests := s.bus.requests ++
            [⟨.ringReset 0, e.base, 0⟩, ⟨.ringReset 1, e.base + 1, 0⟩,
              ⟨.ringReset 2, e.base + 2, 0#21 ++ BitVec.ofNat 11 e.records.toNat⟩] } } ∧
        attention t = false) ∧
      (reportWindow u.windows = none → attention t = false) ∧
      t.setup.engine = s.setup.engine ∧ t.csc = s.csc ∧ t.crx = s.crx ∧ t.mem = s.mem ∧
      t.cap.count = s.cap.count ∧ t.pln = { s.pln with voices := t.pln.voices } ∧
      ∀ v : Fin 4, (planOf t v).enable = (planOf s v).enable

/-- RING_RESET_WORD: the word reaches memory; the first two change nothing else, the last brings the ring
into effect, clears the command-in-progress flag and requests the status word DONE with the engine state,
whose write then ends the command (R163, R164, R176). That the grant of that step, as of any completion at
the port, goes before a write held for the command is the model's choice of an order that R154 leaves open
(notes/assumptions/37.md). -/
def Obligations.RingResetWords : Prop :=
  ∀ (s : State) (k : Fin 3) (a : Addr) (d : Word) (c : Command), Memory.wf s.mem = true →
    s.bus.port = some ⟨.partWrite ⟨.ringReset k, a, d⟩, true⟩ → s.setup.command = some c →
    heldWriteReady s = false → ∃ t, exec .ringResetWord s = .next t ∧
      loadWord t a = d ∧ (∀ b : Addr, b ≠ a → loadWord t b = loadWord s b) ∧
      (k ≠ 2 → t = grant { s with pd := none, mem := t.mem, bus := { s.bus with port := none } }) ∧
      (k = 2 → t = grant { s with
        pd := none
        mem := t.mem
        rpt := { s.rpt with ringWritten := true }
        setup := { s.setup with
          command := none, status := some ⟨c.sequence, c.code, .done, .none, 0⟩ }
        bus := { s.bus with
          port := none
          requests := s.bus.requests ++
            [⟨.status, s.map.entry0.base + 1, doneWord c.sequence s.setup.engine⟩] } })

/-- STATUS_WORD_WRITE: the word reaches memory, the command ends, and its CMD_DONE is raised with the
result, the sequence and the command code (R164). An event that is then ready to be
recorded has its record started before the grant (RecordsAreWritten, notes/assumptions/36.md).
REFUSAL_WORD_WRITE: the word reaches memory, and nothing else changes (R165). -/
def Obligations.StatusAndRefusalWords : Prop :=
  (∀ (s : State) (a : Addr) (d : Word), Memory.wf s.mem = true →
    s.bus.port = some ⟨.partWrite ⟨.refusal, a, d⟩, true⟩ → heldWriteReady s = false →
    ∃ t, exec .refusalWordWrite s = .next t ∧
      loadWord t a = d ∧ (∀ b : Addr, b ≠ a → loadWord t b = loadWord s b) ∧
      t = grant { s with pd := none, mem := t.mem, bus := { s.bus with port := none } }) ∧
  ∀ (s : State) (a : Addr) (d : Word) (w : StatusWrite), Memory.wf s.mem = true →
    s.bus.port = some ⟨.partWrite ⟨.status, a, d⟩, true⟩ → s.setup.status = some w →
    heldWriteReady s = false → ∃ t, exec .statusWordWrite s = .next t ∧
      loadWord t a = d ∧ (∀ b : Addr, b ≠ a → loadWord t b = loadWord s b) ∧
      t = grant (startReadyRecord { s with
        pd := none
        mem := t.mem
        setup := { s.setup with status := none }
        rpt := (raiseEvent s ⟨.cmdDone, w.result.code.setWidth 8, none, w.sequence.setWidth 32,
          w.code.setWidth 32, s.cap.count⟩).rpt
        bus := { s.bus with port := none } })

/-- Which fields of the setup each word of the control window sets (R156, R180, section 11.3): every
other field keeps its value. -/
def Obligations.SetupWordLayout : Prop :=
  ∀ (d : Word) (u : Setup),
    setSetupWord 16 d u =
      { u with general := { u.general with sampleRate := d.extractLsb' 0 17 } } ∧
    setSetupWord 17 d u = { u with general := { u.general with
      tmin := d.extractLsb' 0 11, tmax := d.extractLsb' 16 11 } } ∧
    setSetupWord 18 d u = { u with general := { u.general with
      diffThreshold := d.extractLsb' 0 8, voicing := d.extractLsb' 8 8,
      silence := d.extractLsb' 16 5, tuning := d.extractLsb' 24 8 } } ∧
    setSetupWord 19 d u = { u with general := { u.general with
      hysteresis := d.extractLsb' 0 6, noteHold := d.extractLsb' 8 4,
      unvoicedHold := d.extractLsb' 16 5 } } ∧
    setSetupWord 20 d u = { u with general := { u.general with
      lagLow := d.extractLsb' 0 16, lagCenter := d.extractLsb' 16 16 } } ∧
    setSetupWord 21 d u = { u with general := { u.general with
      lagHigh := d.extractLsb' 0 16, xf := d.extractLsb' 16 10 } } ∧
    setSetupWord 22 d u = { u with general := { u.general with
      jump := d.extractLsb' 0 11, keyRoot := d.extractLsb' 16 4,
      keyScale := d.extractLsb' 20 3 } } ∧
    setSetupWord 23 d u = { u with general := { u.general with
      divisor := d.extractLsb' 0 12, group := d.extractLsb' 16 8 } } ∧
    setSetupWord 24 d u =
      { u with general := { u.general with eventMask := d.extractLsb' 0 18 } } ∧
    setSetupWord 25 d u =
      { u with general := { u.general with urgentMask := d.extractLsb' 0 18 } } ∧
    setSetupWord 26 d u = { u with general := { u.general with
      trigger := d.extractLsb' 0 10, timeout := d.extractLsb' 16 8 } } ∧
    (∀ n, 27 ≤ n → n ≤ 63 → setSetupWord n d u = u) ∧
    (∀ e : Fin 7,
      setSetupWord (64 + 4 * e.val) d u = { u with
        windows := u.windows.set e { u.windows[e] with base := d.extractLsb' 0 20 } } ∧
      setSetupWord (65 + 4 * e.val) d u =
        { u with windows := u.windows.set e { u.windows[e] with size := d } } ∧
      setSetupWord (66 + 4 * e.val) d u = { u with windows := u.windows.set e { u.windows[e] with
        role := d.extractLsb' 0 4, format := d.extractLsb' 8 4 } } ∧
      setSetupWord (67 + 4 * e.val) d u =
        { u with windows := u.windows.set e { u.windows[e] with records := d } }) ∧
    (∀ v : Fin 4,
      setSetupWord (128 + 16 * v.val) d u = { u with voices := u.voices.set v { u.voices[v] with
        startEnabled := d.getLsbD 0, correct := d.getLsbD 1, avoid := d.getLsbD 2,
        mode := d.extractLsb' 8 4, parameter := d.extractLsb' 16 8,
        fallback := d.extractLsb' 24 8 } } ∧
      setSetupWord (129 + 16 * v.val) d u = { u with voices := u.voices.set v { u.voices[v] with
        lowNote := d.extractLsb' 0 8, highNote := d.extractLsb' 8 8,
        gain := d.extractLsb' 16 8 } } ∧
      setSetupWord (130 + 16 * v.val) d u =
        { u with voices := u.voices.set v { u.voices[v] with glide := d.extractLsb' 0 12 } } ∧
      ∀ k, 3 ≤ k → k ≤ 15 → setSetupWord (128 + 16 * v.val + k) d u = u) ∧
    (∀ n : Fin 8, setSetupWord (192 + n.val) d u =
      { u with scales := u.scales.set n (d.extractLsb' 0 12) }) ∧
    (∀ n : Fin 16, setSetupWord (208 + n.val) d u =
      { u with shapes := u.shapes.set n (d.extractLsb' 0 12) })

/-- SETUP_WRITE: a write taken in a setup area sets the shadow fields of its word and is posted; nothing
else changes, the active setup and memory among it (R145, R156). -/
def Obligations.SetupWriteSetsShadow : Prop :=
  ∀ (s : State) (a : Addr) (d : Word) (offset : Nat), portFree s → hasRoom s →
    s.setup.command = none → classify s a = some (.control, offset) →
    (16 ≤ offset ∧ offset ≤ 91) ∨ (128 ≤ offset ∧ offset ≤ 199) ∨
      (208 ≤ offset ∧ offset ≤ 223) →
    exec (.setupWrite a d) s = .next (grant { s with
      pd := none
      setup := { s.setup with shadow := setSetupWord offset d s.setup.shadow }
      bus := { s.bus with queue := s.bus.queue ++ [⟨a, d⟩] } })

/-! ### The bus path (08) -/

/-- The lowest-numbered entry in effect decides a cycle: entry 0 in every engine state, entries 1 to 7
in RUNNING and HALTED only; an address in no entry is passed through (R141, R142). That they stay in effect
in HALTED after a START that failed there, where a cell of R155 reads otherwise, is DEDUCED
(notes/assumptions/38.md). -/
def Obligations.LowestEntryDecides : Prop :=
  ∀ (s : State) (a : Addr), controlPlaced s →
    let base := s.map.entry0.base.toNat
    let lies (e : WindowEntry) : Prop :=
      Role.ofCode e.role ≠ none ∧ Role.ofCode e.role ≠ some .off ∧ e.base.toNat ≤ a.toNat ∧
        a.toNat < e.base.toNat + e.size.toNat
    (base ≤ a.toNat → a.toNat < base + 1024 →
      classify s a = some (.control, a.toNat - base)) ∧
    ((a.toNat < base ∨ base + 1024 ≤ a.toNat) → s.setup.engine = .idle → classify s a = none) ∧
    ((a.toNat < base ∨ base + 1024 ≤ a.toNat) → s.setup.engine ≠ .idle →
      ((∀ n : Fin 7, ¬ lies s.map.entries[n]) → classify s a = none) ∧
      ∀ n : Fin 7, lies s.map.entries[n] → (∀ m : Fin 7, m < n → ¬ lies s.map.entries[m]) →
        ∃ r, Role.ofCode s.map.entries[n].role = some r ∧
          classify s a = some (r, a.toNat - s.map.entries[n].base.toNat))

/-- POSTED_WRITE with room in the queue: a write outside every window, at a plain offset of the control
window with no command in progress, or into the INPUT window while HALTED, joins the queue as its
newest entry and changes nothing else; a read of the word then sees it, and reads of other words see
what they saw (R144, R145, R149, R150). -/
def Obligations.PostedWriteJoinsQueue : Prop :=
  ∀ (s : State) (a : Addr) (d : Word), portFree s → hasRoom s →
    classify s a = none ∨
      (∃ n, classify s a = some (.control, n) ∧ s.setup.command = none ∧
        ((3 ≤ n ∧ n ≤ 15) ∨ (92 ≤ n ∧ n ≤ 127) ∨ (200 ≤ n ∧ n ≤ 207) ∨ 224 ≤ n)) ∨
      (∃ n, classify s a = some (.input, n) ∧ s.setup.engine = .halted) →
    ∃ t, exec (.postedWrite a d) s = .next t ∧
      t = grant { s with
        pd := none, bus := { s.bus with queue := s.bus.queue ++ [⟨a, d⟩] } } ∧
      visibleWord t a = d ∧
      ∀ b : Addr, b ≠ a → visibleWord t b = visibleWord s b

/-- A write to be posted with 8 entries queued is held for room: one outside every window, one into the
INPUT window, and with no command in progress one into the control window, but at the status and refusal
words (R145), and a consumer index that would be taken (R175). A write of role CONTROL or REPORT presented
during a command is held for the command, neither posted nor captured. Once there is room, or the flag is
clear, it is classified afresh and carried out as a write presented then (R138, R148, R149); that a write
held for room is then held for a command, where one is in progress, is DEDUCED
(notes/assumptions/24.md). -/
def Obligations.HeldWritesAreTakenLater : Prop :=
  ∀ (s : State) (a : Addr) (d : Word),
    (portFree s → 8 ≤ s.bus.queue.length →
      classify s a = none ∨ (∃ n, classify s a = some (.input, n)) ∨
        (s.setup.command = none ∧
          ((∃ n, classify s a = some (.control, n) ∧ n ≠ 1 ∧ n ≠ 2) ∨
            (classify s a = some (.report, 1) ∧ ∃ w, reportEntry s = some w ∧
              d.toNat < w.records.toNat ∧
              (d.toNat + w.records.toNat - s.rpt.consumer) % w.records.toNat ≤
                (s.rpt.producer + w.records.toNat - s.rpt.consumer) % w.records.toNat))) →
      exec (.postedWrite a d) s = .next (grant { s with
        pd := none, bus := { s.bus with cycle := some (.writeForRoom a d) } })) ∧
    (portFree s → s.setup.command ≠ none →
      (∃ n, classify s a = some (.control, n) ∨ classify s a = some (.report, n)) →
      exec (.postedWrite a d) s = .next (grant { s with
        pd := none, bus := { s.bus with cycle := some (.writeForCommand a d) } })) ∧
    (s.bus.cycle = some (.writeForRoom a d) → s.resetLow = false → hasRoom s →
      ∃ t, exec .writeTakenAfterRoom s = .next t ∧
        exec (.postedWrite a d) { s with bus := { s.bus with cycle := none } } = .next t) ∧
    (s.bus.cycle = some (.writeForCommand a d) → s.resetLow = false → s.setup.command = none →
      ∃ t, exec .writeTakenAfterCommand s = .next t ∧
        exec (.postedWrite a d) { s with bus := { s.bus with cycle := none } } = .next t)

/-- WINDOW_FAULT: a write into a TAP or PROTECT window, at offset 1 or 2 of the control window, or at any
offset but 1 of the REPORT window is dropped: it reaches neither the queue nor any block, and
WINDOW_FAULT is raised with the role, the address and the data (R144 to R147). -/
def Obligations.DroppedWriteRaisesWindowFault : Prop :=
  ∀ (s : State) (a : Addr) (d : Word) (r : Role) (n : Nat), portFree s →
    classify s a = some (r, n) →
    r = .tap ∨ r = .protect ∨
      (s.setup.command = none ∧
        ((r = .control ∧ (n = 1 ∨ n = 2)) ∨ (r = .report ∧ n ≠ 1))) →
    exec (.windowFault a d) s = .next (grant { s with
      pd := none
      rpt := (raiseEvent s ⟨.windowFault, r.code, none, a.setWidth 32, d, s.cap.count⟩).rpt })

/-- PROCESSOR_READ: a read that is no tap read is served at once by the newest queued write to its
address, or waits for its access, which a free port takes at once (R144, R150, R152).
PROCESSOR_READ_ACCESS: its completion ends the cycle with the word memory holds (R138, R139). -/
def Obligations.ProcessorReads : Prop :=
  ∀ (s : State) (a : Addr),
    (portFree s → (∀ n, classify s a ≠ some (.tap, n)) →
      (∀ d, forwarded s.bus.queue a = some d →
        exec (.processorRead a) s = .next (grant { s with pd := some d })) ∧
      (forwarded s.bus.queue a = none →
        exec (.processorRead a) s = .next { s with
          pd := none
          bus := { s.bus with
            cycle := some (.read a)
            port := if s.bus.port = none then some ⟨.processorRead a, true⟩ else s.bus.port } })) ∧
    (s.bus.port = some ⟨.processorRead a, true⟩ → s.bus.cycle = some (.read a) →
      exec .processorReadAccess s = .next (grant { s with
        pd := some (loadWord s a), bus := { s.bus with port := none, cycle := none } })) ∧
    ∀ (q : List QueueEntry) (d : Word),
      forwarded (q ++ [⟨a, d⟩]) a = some d ∧ forwarded [] a = none ∧
      ∀ b : Addr, b ≠ a → forwarded (q ++ [⟨b, d⟩]) a = forwarded q a

/-- DRAIN: the oldest entry's data reaches memory at its address and the entry leaves the queue; no
other word of memory and nothing else changes, and the word a read of any address sees stays the
same (R150, R151). -/
def Obligations.DrainStoresOldestEntry : Prop :=
  ∀ (s : State) (e : QueueEntry) (rest : List QueueEntry), Memory.wf s.mem = true →
    s.bus.port = some ⟨.drain e, true⟩ → s.bus.queue = e :: rest → heldWriteReady s = false →
    ∃ t, exec .drain s = .next t ∧
      t = grant { s with
        pd := none, mem := t.mem, bus := { s.bus with port := none, queue := rest } } ∧
      loadWord t e.addr = e.data ∧
      (∀ a : Addr, a ≠ e.addr → loadWord t a = loadWord s a) ∧
      ∀ a : Addr, visibleWord t a = visibleWord s a

/-- The arbiter's grant: nothing while RESET is low or the port is busy; otherwise first the access of
the waiting processor cycle, then a drain of a queue of 6 or more, of a write held for room, or of a
queue that holds a requested part write's address, then the part write requested earliest, then a
drain (R152, R153). A grant changes nothing but the port and, by a part write,
the requests. That any requested part write whose address is queued presses the drain, even one not
next to be granted, is the model's reading (notes/assumptions/34.md). -/
def Obligations.ArbiterRanks : Prop :=
  ∀ s : State,
    grant s = { s with bus := (grant s).bus } ∧
    (s.resetLow = true → grant s = s) ∧
    (s.bus.port ≠ none → grant s = s) ∧
    (s.resetLow = false → s.bus.port = none →
      (∀ a, s.bus.cycle = some (.read a) →
        grant s = { s with bus := { s.bus with port := some ⟨.processorRead a, true⟩ } }) ∧
      (∀ r w a, s.bus.cycle = some (.tap r) → r.work = some w → w.left.head? = some a →
        grant s = { s with bus := { s.bus with port := some ⟨.tapFetch a, true⟩ } }) ∧
      ((∀ a, s.bus.cycle ≠ some (.read a)) → (∀ r, s.bus.cycle ≠ some (.tap r)) →
        (∀ e, s.bus.queue.head? = some e →
          (6 ≤ s.bus.queue.length ∨ (∃ a d, s.bus.cycle = some (.writeForRoom a d)) ∨
            (∃ w ∈ s.bus.requests, ∃ x ∈ s.bus.queue, x.addr = w.addr) ∨
            s.bus.requests = []) →
          grant s = { s with bus := { s.bus with port := some ⟨.drain e, true⟩ } }) ∧
        (∀ w ws, s.bus.requests = w :: ws → s.bus.queue.length < 6 →
          (∀ a d, s.bus.cycle ≠ some (.writeForRoom a d)) →
          (∀ x ∈ s.bus.requests, ∀ y ∈ s.bus.queue, y.addr ≠ x.addr) →
          grant s = { s with
            bus := { s.bus with port := some ⟨.partWrite w, true⟩, requests := ws } }) ∧
        (s.bus.queue = [] → s.bus.requests = [] → grant s = s)))

/-! ### Capture (01) -/

/-- CAPTURE: a write into the INPUT window in RUNNING is posted and sorted by its gap g. Unsynchronised,
it becomes position 0 at its slot (R2); in step C and the count rise by 1 (R3); a small gap g places
g zeros first and raises both by g + 1, with CAPTURE_GAP (R4); a larger gap below half the window
clears the tracker, parks the voices and restarts at C = 1, the count rising by g + 1, with
CAPTURE_RESTART (R5); anything else is a rewrite: it is posted and raises CAPTURE_BACKWARD with its address
and the expected slot, stamped with the count unchanged, and captures, hands over, advances and executes
nothing, whatever the AT list holds (R6, R9). -/
def Obligations.CaptureCases : Prop :=
  ∀ (s : State) (a : Addr) (d : Word) (slot : Nat), portFree s → hasRoom s →
    s.setup.engine = .running → classify s a = some (.input, slot) →
    let size := inputSize s
    let x := sampleOf (inputFormat s) d
    let raised (e : Event) (t : State) : Prop :=
      s.csc.atList = [] →
        t.rpt.queue = (raiseEvent s e).rpt.queue ∧ t.rpt.lost = (raiseEvent s e).rpt.lost
    ∃ t, exec (.capture a d) s = .next t ∧ t.setup = s.setup ∧ t.map = s.map ∧ t.mem = s.mem ∧
      t.crx = s.crx ∧
      t.bus = (grant { s with bus := { s.bus with queue := s.bus.queue ++ [⟨a, d⟩] } }).bus ∧
      (s.cap.offset = none →
        t.cap = ⟨some slot, 1, 1, s.cap.count + 1⟩ ∧
        t.trk = { s.trk with buffer := (x :: s.trk.buffer).take 2048 }) ∧
      ∀ o, s.cap.offset = some o →
        let expected := (o + s.cap.c.toNat) % size
        let g := (slot + size - expected) % size
        (g = 0 →
          t.cap = ⟨some o, s.cap.c + 1, min 65536 (s.cap.fill + 1), s.cap.count + 1⟩ ∧
          t.trk.buffer = (x :: s.trk.buffer).take 2048 ∧ t.trk.history = s.trk.history ∧
          t.trk.sung = s.trk.sung) ∧
        (1 ≤ g → g ≤ 256 →
          t.cap = ⟨some o, s.cap.c + BitVec.ofNat 32 (g + 1), min 65536 (s.cap.fill + (g + 1)),
            s.cap.count + BitVec.ofNat 32 (g + 1)⟩ ∧
          t.trk.buffer = ((x :: List.replicate g 0) ++ s.trk.buffer).take 2048 ∧
          raised ⟨.captureGap, 0, none, BitVec.ofNat 32 g, BitVec.ofNat 32 slot,
            s.cap.count + BitVec.ofNat 32 (g + 1)⟩ t) ∧
        (257 ≤ g → g < size / 2 →
          t.cap = ⟨some slot, 1, 1, s.cap.count + BitVec.ofNat 32 (g + 1)⟩ ∧
          t.trk = { s.trk with
            buffer := [x], history := [], sung := none, outside := 0, unvoiced := 0,
            generation := s.trk.generation + 1 } ∧
          (s.csc.atList = [] → ∀ v : Fin 4, (voiceOf s v).p ≠ none →
            (voiceOf s v).consistent → (voiceOf t v).p = none ∧ (voiceOf t v).fade = 0 ∧
            (voiceOf t v).state =
              (if (voiceOf s v).enable then .parked else .silent) ∧
            (voiceOf t v).target = (voiceOf s v).target) ∧
          raised ⟨.captureRestart, 1, none, BitVec.ofNat 32 g, BitVec.ofNat 32 slot,
            s.cap.count + BitVec.ofNat 32 (g + 1)⟩ t) ∧
        (257 ≤ g → size / 2 ≤ g →
          t = grant (raiseEvent
            { s with pd := none, bus := { s.bus with queue := s.bus.queue ++ [⟨a, d⟩] } }
            ⟨.captureBackward, 0, none, a.setWidth 32, BitVec.ofNat 32 expected, s.cap.count⟩) ∧
          t.cap = s.cap ∧ t.trk = s.trk ∧ t.vce = s.vce ∧ t.pln = s.pln ∧ t.csc = s.csc)

/-- CAPTURE placed position by position, in the model's order (DEDUCED, notes/assumptions/15.md). A
synchronising write places position 0 at its slot (R2), a write in step one position (R3), a small gap its
zeros and the sample (R4); a restart clears the tracker, parks the voices, drops the fill and places position
0 (R5). Each position hands its sample over and raises C and the fill (R8, R15); one that makes C a multiple
of 256 with the fill at least 2,048 notifies a hop, its stamp the count before the write plus the positions
placed: the hop counter rises, and an analysis starts on the buffer with its stamp, generation and
parameters, or SKIPPED is set (R7, R16, R177). Then the count rises in one advance, which goes to the AT
list: while the head is due it is removed and its cue executed (R9, R131). Then the write's event is raised.
Last, every PARKED voice with a target enters, once the fill is LAG_CENTER + 2 (R63). -/
def Obligations.CaptureNotifiesHopsAndCues : Prop :=
  (∀ (s : State) (a : Addr) (d : Word) (slot : Nat), portFree s → hasRoom s →
    s.setup.engine = .running → classify s a = some (.input, slot) →
    let size := inputSize s
    let x := sampleOf (inputFormat s) d
    let posted : State :=
      { s with pd := none, bus := { s.bus with queue := s.bus.queue ++ [⟨a, d⟩] } }
    let begun (u : State) : State :=
      { u with cap := { u.cap with offset := some slot, c := 0, fill := 0 } }
    let counted (n : Nat) (u : State) : State :=
      { u with cap := { u.cap with count := s.cap.count + BitVec.ofNat 32 n } }
    let raised (n : Nat) (e : EventKind × Byte × Nat) (u : State) : State :=
      raiseEvent u ⟨e.1, e.2.1, none, BitVec.ofNat 32 e.2.2, BitVec.ofNat 32 slot,
        s.cap.count + BitVec.ofNat 32 n⟩
    let takes (u : State) (samples : List Sample) (n : Nat) (event : State → State) : Prop :=
      let placed := placePositions samples (s.cap.count + 1) u
      ∃ t, exec (.capture a d) s = .next t ∧
        t = grant (entryTests (event (executeDue s.csc.atList (counted n placed)))) ∧
        t.csc.onsetList = s.csc.onsetList ∧
        t.csc.atList = s.csc.atList.dropWhile (fun e =>
          let away := (e.stamp - (s.cap.count + BitVec.ofNat 32 n)).toNat
          decide (away = 0 ∨ 2147483648 ≤ away))
    (s.cap.offset = none → takes (begun posted) [x] 1 id) ∧
    ∀ o, s.cap.offset = some o →
      let g := (slot + size - (o + s.cap.c.toNat) % size) % size
      (g = 0 → takes posted [x] 1 id) ∧
      (1 ≤ g → g ≤ 256 →
        takes posted (List.replicate g 0 ++ [x]) (g + 1) (raised (g + 1) (.captureGap, 0, g))) ∧
      (257 ≤ g → g < size / 2 → ∃ parked,
        parked = { posted with
          trk := { s.trk with
            buffer := [], history := [], sung := none, outside := 0, unvoiced := 0,
            generation := s.trk.generation + 1 }
          vce := { s.vce with voices := parked.vce.voices } } ∧
        (∀ v : Fin 4, let r := voiceOf s v
          voiceOf parked v =
            if r.state = .silent ∨ r.state = .parked then r
            else { r with
              fade := 0, p := none, xfade := none, splicePending := false,
              state := if r.state = .leaving ∧ r.enable = false then .silent else .parked }) ∧
        takes (begun parked) [x] (g + 1) (raised (g + 1) (.captureRestart, 1, g)))) ∧
  (∀ (u : State) (x : Sample) (more : List Sample) (stamp : Word),
    let g := u.setup.active.general
    let buffer := (x :: u.trk.buffer).take 2048
    let placed : State := { u with
      trk := { u.trk with buffer := buffer }
      cap := { u.cap with c := u.cap.c + 1, fill := min 65536 (u.cap.fill + 1) } }
    let hop : Prop := (u.cap.c + 1).toNat % 256 = 0 ∧ 2048 ≤ u.cap.fill + 1
    let noted (t : Tracker) : State :=
      { placed with trk := t, rpt := { u.rpt with hopCounter := u.rpt.hopCounter + 1 } }
    placePositions [] stamp u = u ∧
    (¬ hop → placePositions (x :: more) stamp u = placePositions more (stamp + 1) placed) ∧
    (hop →
      (u.trk.inFlight = none → placePositions (x :: more) stamp u =
        placePositions more (stamp + 1) (noted { u.trk with
          buffer := buffer,
          inFlight := some ⟨buffer, stamp, u.trk.generation,
            ⟨g.tmin.toNat, g.tmax.toNat, g.diffThreshold.toNat, g.voicing.toNat,
              g.silence.toNat, g.sampleRate.toNat, g.tuning.toInt⟩⟩ })) ∧
      (u.trk.inFlight ≠ none → placePositions (x :: more) stamp u =
        placePositions more (stamp + 1)
          (noted { u.trk with buffer := buffer, skipped := true })))) ∧
  (∀ u : State,
    executeDue [] u = { u with csc := { u.csc with atList := [] } } ∧
    ∀ (e : AtEntry) (rest : List AtEntry),
      let due : Prop :=
        (e.stamp - u.cap.count).toNat = 0 ∨ 2147483648 ≤ (e.stamp - u.cap.count).toNat
      (due → executeDue (e :: rest) u = executeDue rest
        (executeMusical false e.cue { u with csc := { u.csc with atList := rest } })) ∧
      (¬ due → executeDue (e :: rest) u = { u with csc := { u.csc with atList := e :: rest } })) ∧
  ∀ u : State,
    entryTests u = { u with vce := { u.vce with voices := (entryTests u).vce.voices } } ∧
    ∀ v : Fin 4,
      let r := voiceOf u v
      let centre := u.setup.active.general.lagCenter
      (∀ t, r.state = .parked → r.target = some t → centre.toNat + 2 ≤ u.cap.fill →
        voiceOf (entryTests u) v = { r with
          state := .entering, fade := 0, xfade := none, splicePending := false,
          p := some ((u.cap.c - centre.setWidth 32) ++ 0#16),
          current := t.shift, ratio := ratioOf t.shift }) ∧
      (r.state ≠ .parked ∨ r.target = none ∨ u.cap.fill < centre.toNat + 2 →
        voiceOf (entryTests u) v = r)

/-! ### Pitch tracking (02) -/

/-- ANALYSIS_COMPLETION: with an unequal generation tag the result is discarded and only the analysis in
flight ends (R17, R18). With an equal tag its record enters the history as the newest of at most 8,
NEW_RECORD is set, and the note decision is taken (R26, R31); a change raises NOTE_CHANGE with the
record's stamp (R30); an onset executes the ONSET list cue by cue, each as KeyAndChordCues,
VoiceOnAndOffCues and ModeHoldAndReleaseCues say of a cue of that list, and re-plans, a change to none
re-plans (R31, R132); last, each voice takes its shift update: a shift beyond 2,400 cents is lost with
VOICE_RANGE and a withdrawal, a voice that waited for a shift is handed its target, any other its new
shift (R55, R56). Capture, the setup, the map, memory, the receiver and the AT list are kept. -/
def Obligations.AnalysisCompletes : Prop :=
  (∀ (s : State) (x : Analysis), s.trk.inFlight = some x →
    (x.generation ≠ s.trk.generation → exec .analysisCompletion s =
      .next { s with pd := none, trk := { s.trk with inFlight := none } }) ∧
    (x.generation = s.trk.generation →
      let record := analyse x
      let decided := s.trk.noteDecision s.setup.active.general record
      ∃ base t, exec .analysisCompletion s = .next t ∧
      base = { s with
        pd := none
        trk := { s.trk with
          inFlight := none, newRecord := true, history := (record :: s.trk.history).take 8,
          sung := decided.1.sung, outside := decided.1.outside,
          unvoiced := decided.1.unvoiced } } ∧
      (decided.2 = .kept → t = shiftUpdates base) ∧
      (∀ old new, decided.2 = .onset old new →
        t = shiftUpdates (replanAll (executeOnsetList s.csc.onsetList
          (raiseEvent base ⟨.noteChange, 1, none, BitVec.ofNat 32 new,
            (match old with
              | none => 255
              | some n => (BitVec.ofNat 8 n).setWidth 32), record.stamp⟩))) ∧
        t.csc.onsetList = []) ∧
      (∀ old, decided.2 = .quiet old →
        t = shiftUpdates (replanAll (raiseEvent base
          ⟨.noteChange, 2, none, 255, BitVec.ofNat 32 old, record.stamp⟩))) ∧
      ((∀ old new, decided.2 ≠ .onset old new) → t.csc.onsetList = s.csc.onsetList) ∧
      t.trk = base.trk ∧ t.csc.atList = s.csc.atList ∧ t.cap = s.cap ∧ t.setup = s.setup ∧
      t.map = s.map ∧ t.mem = s.mem ∧ t.crx = s.crx ∧ t.bus.queue = s.bus.queue ∧
      t.bus.port = s.bus.port ∧ t.bus.requests = s.bus.requests)) ∧
  (∀ u : State, executeOnsetList [] u = { u with csc := { u.csc with onsetList := [] } } ∧
    ∀ (cue : MusicalCue) (rest : List MusicalCue), executeOnsetList (cue :: rest) u =
      executeOnsetList rest
        (executeMusical true cue { u with csc := { u.csc with onsetList := rest } })) ∧
  (∀ u : State, shiftUpdates u = shiftUpdate (shiftUpdate (shiftUpdate (shiftUpdate u 0) 1) 2) 3) ∧
  ∀ (u : State) (v : Fin 4),
    let p := planOf u v
    (p.note = none → shiftUpdate u v = u) ∧
    ∀ t, p.note = some t →
      let given (note : Option Nat) (shift : Option Int) : State :=
        setPlan u v { p with note := note, shift := shift, handed := note, newlyEnabled := false }
      (targetShift u v t p = none → shiftUpdate u v = setPlan u v { p with shift := none }) ∧
      ∀ x, targetShift u v t p = some x →
        ((x < -2400 ∨ 2400 < x) → shiftUpdate u v = handClaim
          (raiseEvent (given none none) ⟨.voiceRange, 2, some v, BitVec.ofInt 32 x,
            BitVec.ofNat 32 t, u.cap.count⟩) v .withdraw) ∧
        (-2400 ≤ x → x ≤ 2400 →
          (p.shift = none →
            shiftUpdate u v = handClaim (given (some t) (some x)) v (.update ⟨t, x⟩)) ∧
          (p.shift ≠ none →
            shiftUpdate u v = handClaim (given (some t) (some x)) v (.shift x)))

/-- The note decision: from none, a voiced record takes its nearest note, an onset (R27); inside the
band the note stays (R28); outside it the NOTE_HOLD-th voiced record in a run takes the nearest note,
an onset if it differs (R28); an unvoiced record counts up to 16 and at UNVOICED_HOLD takes the note
away (R29). -/
def Obligations.NoteDecision : Prop :=
  ∀ (t : Tracker) (g : General) (r : PitchRecord),
    (∀ p, r.voiced = true → r.pitch = some p → t.sung = none →
      t.noteDecision g r =
        ({ t with sung := some (min 127 ((p + 50) / 100)), outside := 0, unvoiced := 0 },
          .onset none (min 127 ((p + 50) / 100)))) ∧
    (∀ p n, r.voiced = true → r.pitch = some p → t.sung = some n →
      (((p : Int) - 100 * n).natAbs ≤ 50 + g.hysteresis.toNat →
        t.noteDecision g r = ({ t with outside := 0, unvoiced := 0 }, .kept)) ∧
      (50 + g.hysteresis.toNat < ((p : Int) - 100 * n).natAbs →
        (t.outside + 1 < g.noteHold.toNat →
          t.noteDecision g r = ({ t with outside := t.outside + 1, unvoiced := 0 }, .kept)) ∧
        (g.noteHold.toNat ≤ t.outside + 1 → min 127 ((p + 50) / 100) ≠ n →
          t.noteDecision g r =
            ({ t with sung := some (min 127 ((p + 50) / 100)), outside := 0, unvoiced := 0 },
              .onset (some n) (min 127 ((p + 50) / 100)))) ∧
        (g.noteHold.toNat ≤ t.outside + 1 → min 127 ((p + 50) / 100) = n →
          t.noteDecision g r = ({ t with outside := 0, unvoiced := 0 }, .kept)))) ∧
    (r.voiced = false →
      (∀ n, t.sung = some n → g.unvoicedHold.toNat ≤ min 16 (t.unvoiced + 1) →
        t.noteDecision g r =
          ({ t with sung := none, outside := 0, unvoiced := min 16 (t.unvoiced + 1) },
            .quiet n)) ∧
      (t.sung = none ∨ min 16 (t.unvoiced + 1) < g.unvoicedHold.toNat →
        t.noteDecision g r =
          ({ t with outside := 0, unvoiced := min 16 (t.unvoiced + 1) }, .kept)))

/-- The analysis of a frame of 2,048 samples, newest first. Headroom: the shifts that bring the peak to
2^22; above the silence headroom the record is silent (R20). Differences of the shifted frame, normalised
and held in 1/65,536, truncated (R21). The lag: the bottom of the first dip below the threshold, else the
least, the lowest of a tie (R22). The period in 1/16 samples, refined between the ends where the
denominator is positive (R23). Confidence and voicing (R24); the record (R25). The pitch value of a period:
6,900 plus the nearest cent of 1,200 times the base-2 logarithm of the frequency over 440 Hz, an exact half
up, plus the tuning offset, clamped to 0 to 12,799 (R24, 00_scope section 5.3). -/
def Obligations.PitchValueRounded : Prop :=
  (∀ (rate period : Nat) (tuning : Int), 8000 ≤ rate → rate ≤ 96000 → 256 ≤ period →
    period ≤ 16384 →
    (pitchValue rate period tuning : Int) =
      max 0 (min 12799 (6900 +
        ⌊1200 * Real.logb 2 ((16 * (rate : ℝ)) / (440 * (period : ℝ))) + 1 / 2⌋ + tuning))) ∧
  ∀ x : Analysis, x.frame.length = 2048 → x.params.tmin < x.params.tmax → x.params.tmax ≤ 1024 →
    let q := x.params
    let sample (j : Nat) : Int := (x.frame.getD j 0).toInt
    ∃ peak h : Nat,
      (∀ j, (sample j).natAbs ≤ peak) ∧ (∃ j, (sample j).natAbs = peak) ∧
      (peak = 0 → h = 23) ∧ (4194304 ≤ peak → h = 0) ∧
      (0 < peak → peak < 4194304 → 1 ≤ h ∧ h ≤ 22 ∧ 4194304 ≤ peak * 2 ^ h ∧
        peak * 2 ^ (h - 1) < 4194304) ∧
      (q.silence < h → analyse x = ⟨x.stamp, false, true, none, none, 0, h⟩) ∧
      (h ≤ q.silence →
        let d (lag : Nat) : Nat :=
          ∑ j ∈ Finset.range 1024, ((sample j - sample (j + lag)) * 2 ^ h).natAbs
        let held (lag : Nat) : Nat :=
          let sum := ∑ u ∈ Finset.Icc q.tmin lag, d u
          if sum = 0 then 65536 else d lag * (lag - q.tmin + 1) * 65536 / sum
        let threshold := q.diffThreshold * 256
        ∃ lag period confidence : Nat, q.tmin ≤ lag ∧ lag ≤ q.tmax ∧
          (∀ first, q.tmin ≤ first → first ≤ q.tmax → held first < threshold →
            (∀ u, q.tmin ≤ u → u < first → threshold ≤ held u) →
            first ≤ lag ∧ (∀ u, first ≤ u → u < lag → held (u + 1) < held u) ∧
              (lag < q.tmax → held lag ≤ held (lag + 1))) ∧
          ((∀ u, q.tmin ≤ u → u ≤ q.tmax → threshold ≤ held u) →
            (∀ u, q.tmin ≤ u → u ≤ q.tmax → held lag ≤ held u) ∧
              ∀ u, q.tmin ≤ u → u < lag → held lag < held u) ∧
          (let a : ℚ := d (lag - 1)
            let c : ℚ := d (lag + 1)
            let den : ℚ := a - 2 * d lag + c
            (period : Int) =
              if q.tmin < lag ∧ lag < q.tmax ∧ 0 < den then
                ⌊16 * (lag + max (-1 / 2) (min (1 / 2) ((a - c) / (2 * den)))) + 1 / 2⌋
              else 16 * lag) ∧
          (confidence : Int) = 255 - min 255 ⌊(255 * held lag / 65536 : ℚ) + 1 / 2⌋ ∧
          analyse x =
            (if held lag < threshold ∧ q.voicing ≤ confidence then
              ⟨x.stamp, true, false, some period,
                some (pitchValue q.sampleRate period q.tuning), confidence, h⟩
            else ⟨x.stamp, false, false, some period, none, confidence, h⟩))

/-! ### Harmony planning (03) -/

/-- The start targets of SCALE and CHORD modes, the range fold and the unison check. SCALE with parameter d
counts d scale notes from the highest at or below the sung note (R43); CHORD counts d chord tones strictly
above or below it, or for 0 takes the nearest, the lower of two as near; with no chord, or one whose shape
is undefined, it is SCALE with the fallback degrees (R44). The sets are not empty, as validation ensures
(R38). The range fold: a target above the range comes down to the highest note of its pitch class at or
below HIGH_NOTE, one below it up to the lowest at or above LOW_NOTE, one inside it stays; it fails exactly
when the range holds no note of its pitch class (R46). The unison check moves a target off the taken notes,
each move followed by the fold, and keeps it after the third: to the next note of the set in the direction
of the parameter, or of the fallback degrees; FIXED and PEDAL stay (R47). -/
def Obligations.StartTargetsAndRangeFold : Prop :=
  (∀ (s : State) (live : LiveMode) (planned : Option Nat) (t : Int),
    let scale := scaleMask s s.pln.key.scale
    let root := s.pln.key.root
    let note (mask : BitVec 12) (root : Nat) (m : Int) : Bool :=
      mask.getLsbD ((m - root) % 12).toNat
    let noChord : Prop := ∀ c, s.pln.chord = some c → shapeMask s c.shape = 0
    scale ≠ 0 →
    (∀ n : Nat, s.trk.sung = some n →
      let scaleTarget (d t : Int) : Prop := ∃ r : Int,
        note scale root r = true ∧ r ≤ n ∧ (∀ m : Int, r < m → m ≤ n → note scale root m = false) ∧
        note scale root t = true ∧
        (0 ≤ d → r ≤ t ∧ ((Finset.Ioc r t).filter (fun m => note scale root m)).card = d.toNat) ∧
        (d < 0 → t < r ∧ ((Finset.Ico t r).filter (fun m => note scale root m)).card = d.natAbs)
      (live.mode = .scale →
        (modeTarget s live planned = some t ↔ scaleTarget live.parameter t)) ∧
      (live.mode = .chord → noChord →
        (modeTarget s live planned = some t ↔ scaleTarget live.fallback t)) ∧
      ∀ c, live.mode = .chord → s.pln.chord = some c → shapeMask s c.shape ≠ 0 →
        let tone := note (shapeMask s c.shape) c.root
        let d := live.parameter
        (modeTarget s live planned = some t ↔
          tone t = true ∧
          (0 < d → (n : Int) < t ∧ ((Finset.Ioc (n : Int) t).filter (fun m => tone m)).card = d.toNat) ∧
          (d < 0 → t < n ∧ ((Finset.Ico t (n : Int)).filter (fun m => tone m)).card = d.natAbs) ∧
          (d = 0 → ∀ m : Int, tone m = true →
            (t - n).natAbs < (m - n).natAbs ∨ ((t - n).natAbs = (m - n).natAbs ∧ t ≤ m)))) ∧
    (let next (tone : Int → Bool) (d u : Int) : Prop := tone u = true ∧
        (0 ≤ d → t < u ∧ ∀ m, t < m → m < u → tone m = false) ∧
        (d < 0 → u < t ∧ ∀ m, u < m → m < t → tone m = false);
      (live.mode = .scale → next (note scale root) live.parameter (unisonMove s live t)) ∧
      (live.mode = .chord → noChord →
        next (note scale root) live.fallback (unisonMove s live t)) ∧
      (∀ c, live.mode = .chord → s.pln.chord = some c → shapeMask s c.shape ≠ 0 →
        next (note (shapeMask s c.shape) c.root) live.parameter (unisonMove s live t)) ∧
      (live.mode = .fixed ∨ live.mode = .pedal → unisonMove s live t = t))) ∧
  (∀ low high t : Int, low ≤ high →
    (∀ u, rangeFold low high t = some u →
      low ≤ u ∧ u ≤ high ∧ (u - t) % 12 = 0 ∧ (low ≤ t → t ≤ high → u = t) ∧
      (high < t → high < u + 12) ∧ (t < low → u < low + 12)) ∧
    (rangeFold low high t = none → ∀ u, low ≤ u → u ≤ high → (u - t) % 12 ≠ 0)) ∧
  ∀ (s : State) (live : LiveMode) (low high t : Int) (taken : List Int) (moves : Nat),
    let check (moves : Nat) (r : FoldResult) : FoldResult :=
      unisonCheck s live low high taken moves r
    foldResult low high t = (match rangeFold low high t with
      | some u => FoldResult.note u
      | none => FoldResult.failed t) ∧
    check moves (.failed t) = .failed t ∧ check 0 (.note t) = .note t ∧
    (t ∉ taken → check (moves + 1) (.note t) = .note t) ∧
    (t ∈ taken → check (moves + 1) (.note t) =
      check moves (foldResult low high (unisonMove s live t)))

/-- The start targets of FIXED and PEDAL modes, and of a mode that needs a sung note and has none: its
planned note, which goes through the fold and the unison check as any other (R45). -/
def Obligations.FixedAndPedalTargets : Prop :=
  (∀ (s : State) (live : LiveMode) (planned : Option Nat),
    (live.mode = .pedal → modeTarget s live planned = some live.parameter) ∧
    (∀ n, live.mode = .fixed → s.trk.sung = some n →
      modeTarget s live planned = some (n + live.parameter)) ∧
    (live.mode ≠ .pedal → s.trk.sung = none →
      (∀ n, planned = some n → modeTarget s live planned = some (n : Int)) ∧
      (planned = none → modeTarget s live planned = none))) ∧
  ∀ (s : State) (v : Fin 4) (others : List (Fin 4)),
    let p := planOf s v
    p.enable = true → p.live.mode ≠ .pedal → s.trk.sung = none →
    (p.note = none → planNote s v others = none) ∧
    ∀ n : Nat, p.note = some n →
      let folded := foldResult (voiceSetup s v).lowNote.toNat (voiceSetup s v).highNote.toNat n
      planNote s v others = some (if (voiceSetup s v).avoid then
          unisonCheck s p.live (voiceSetup s v).lowNote.toNat (voiceSetup s v).highNote.toNat
            (notesOf s others) 3 folded
        else folded)

/-- The plan of a voice (R48): none while disabled; else its start target, during hold the frozen note
unless it is newly enabled or has none (R53), folded and, with AVOID, checked against the sung note and the
notes of the enabled voices given. A failed fold loses note and shift with VOICE_RANGE, detail RANGE (R46).
A note is given its shift by the first case of R55 that applies: with CORRECT from the latest record's
pitch, where it is voiced; else from the sung note; else, the note unchanged, the shift it has; else none.
A shift beyond 2,400 cents loses both with VOICE_RANGE, detail SHIFT (R55). After a re-plan every planned
note lies within its voice's LOW_NOTE to HIGH_NOTE and every planned shift within 2,400 cents, and a
disabled voice has neither (R46, R48, R55). -/
def Obligations.PlansOfVoices : Prop :=
  (∀ (s : State) (v : Fin 4) (others : List (Fin 4)),
    let p := planOf s v
    let u := voiceSetup s v
    let low : Int := u.lowNote.toNat
    let high : Int := u.highNote.toNat
    (s.pln.hold = true → p.newlyEnabled = false → ∀ n : Nat, p.note = some n →
      startTarget s p = some (n : Int)) ∧
    (s.pln.hold = false ∨ p.newlyEnabled = true ∨ p.note = none →
      startTarget s p = modeTarget s p.live p.note) ∧
    (p.enable = false → planNote s v others = none) ∧
    (p.enable = true → planNote s v others = (startTarget s p).map (fun t =>
      if u.avoid then
        unisonCheck s p.live low high ((s.trk.sung.map Int.ofNat).toList ++ notesOf s others) 3
          (foldResult low high t)
      else foldResult low high t)) ∧
    (∀ x : Int, x ∈ notesOf s others ↔ ∃ w ∈ others, (planOf s w).enable = true ∧
      ∃ n : Nat, (planOf s w).note = some n ∧ x = n) ∧
    let planned (note : Option Nat) (shift : Option Int) : State :=
      setPlan s v { p with note := note, shift := shift }
    (planNote s v others = none → planVoice s v others = planned none none) ∧
    (∀ x, planNote s v others = some (.failed x) → planVoice s v others =
      raiseEvent (planned none none) ⟨.voiceRange, 1, some v, BitVec.ofInt 32 x,
        (match s.trk.sung with
          | none => 255
          | some n => (BitVec.ofNat 8 n).setWidth 32), s.cap.count⟩) ∧
    ∀ t : Nat, planNote s v others = some (.note (t : Int)) →
      (targetShift s v t p = none → planVoice s v others = planned (some t) none) ∧
      ∀ x, targetShift s v t p = some x →
        (-2400 ≤ x → x ≤ 2400 → planVoice s v others = planned (some t) (some x)) ∧
        (x < -2400 ∨ 2400 < x → planVoice s v others = raiseEvent (planned none none)
          ⟨.voiceRange, 2, some v, BitVec.ofInt 32 x, BitVec.ofNat 32 t, s.cap.count⟩)) ∧
  (∀ (s : State) (v : Fin 4) (t : Nat) (before : VoicePlan),
    let aimed : Prop := (voiceSetup s v).correct = true ∧
      ∃ r, s.trk.history.head? = some r ∧ r.voiced = true
    (∀ (r : PitchRecord) (pitch : Nat), (voiceSetup s v).correct = true →
      s.trk.history.head? = some r →
      r.voiced = true → r.pitch = some pitch →
      targetShift s v t before = some (100 * (t : Int) - pitch)) ∧
    (¬ aimed →
      (∀ n : Nat, s.trk.sung = some n →
        targetShift s v t before = some (100 * ((t : Int) - n))) ∧
      (s.trk.sung = none →
        (before.note = some t → targetShift s v t before = before.shift) ∧
        (before.note ≠ some t → targetShift s v t before = none)))) ∧
  ∀ (s : State) (v : Fin 4),
    (∀ n, (planOf (replanAll s) v).note = some n →
      (voiceSetup s v).lowNote.toNat ≤ n ∧ n ≤ (voiceSetup s v).highNote.toNat) ∧
    (∀ x, (planOf (replanAll s) v).shift = some x → -2400 ≤ x ∧ x ≤ 2400) ∧
    ((planOf s v).enable = false →
      (planOf (replanAll s) v).note = none ∧ (planOf (replanAll s) v).shift = none)

/-! ### Cues (07) -/

/-- KEY and CHORD due NOW, accepted in RUNNING: outside hold they set the key or the chord, a shape code
of 255 sets no chord, and all voices are re-planned; during hold they set the deferred key or chord and
leave every plan. Nothing
but the planner, the voices, the event queue and the receiver's return to ASLEEP is touched (R37,
R50, R52, R127, R130). Executed at any state, from a list or at once: a chord whose shape is undefined then
makes the chord none, and a cue of the ONSET list makes no re-plan of its own (R37, R52, R128). -/
def Obligations.KeyAndChordCues : Prop :=
  (∀ (s : State) (dest root : Byte), s.setup.engine = .running → listening s dest →
    root.toNat ≤ 11 →
    (∀ scale : Byte, scale.toNat ≤ 7 → ∃ t, exec (.key dest .now root scale 0) s = .next t ∧
      planOnly s { t with crx := s.crx } ∧ t.crx = heard s ∧ t.pln.hold = s.pln.hold ∧
      t.pln.chord = s.pln.chord ∧ t.pln.deferredChord = s.pln.deferredChord ∧
      (s.pln.hold = false → t.pln.key = ⟨root.toNat, scale.toNat⟩ ∧
        t.pln.deferredKey = s.pln.deferredKey ∧
        t = replanAll { s with
          pd := none, crx := heard s,
          pln := { s.pln with key := ⟨root.toNat, scale.toNat⟩ } }) ∧
      (s.pln.hold = true →
        t = { s with
          pd := none, crx := heard s,
          pln := { s.pln with deferredKey := some ⟨root.toNat, scale.toNat⟩ } })) ∧
    (∀ shape : Byte, shape.toNat = 255 ∨ (shape.toNat ≤ 15 ∧ shapeMask s shape.toNat ≠ 0) →
      let chord : Option Chord :=
        if shape.toNat = 255 then none else some ⟨root.toNat, shape.toNat⟩
      ∃ t, exec (.chord dest .now root shape 0) s = .next t ∧
      planOnly s { t with crx := s.crx } ∧ t.crx = heard s ∧ t.pln.hold = s.pln.hold ∧
      t.pln.key = s.pln.key ∧ t.pln.deferredKey = s.pln.deferredKey ∧
      (s.pln.hold = false → t.pln.chord = chord ∧
        t.pln.deferredChord = s.pln.deferredChord ∧
        t = replanAll { s with
          pd := none, crx := heard s, pln := { s.pln with chord := chord } }) ∧
      (s.pln.hold = true →
        t = { s with
          pd := none, crx := heard s, pln := { s.pln with deferredChord := some chord } }))) ∧
  ∀ (u : State) (fromOnset : Bool),
    let planned (p : Planner) : State :=
      if fromOnset then { u with pln := p } else replanAll { u with pln := p }
    (∀ k : Key,
      (u.pln.hold = false →
        executeMusical fromOnset (.key k) u = planned { u.pln with key := k }) ∧
      (u.pln.hold = true →
        executeMusical fromOnset (.key k) u =
          { u with pln := { u.pln with deferredKey := some k } })) ∧
    (∀ c : Option Chord, u.pln.hold = true →
      executeMusical fromOnset (.chord c) u =
        { u with pln := { u.pln with deferredChord := some c } }) ∧
    (u.pln.hold = false →
      executeMusical fromOnset (.chord none) u = planned { u.pln with chord := none } ∧
      ∀ c : Chord,
        (shapeMask u c.shape ≠ 0 →
          executeMusical fromOnset (.chord (some c)) u = planned { u.pln with chord := some c }) ∧
        (shapeMask u c.shape = 0 →
          executeMusical fromOnset (.chord (some c)) u = planned { u.pln with chord := none }))

/-- VOICE_ON and VOICE_OFF due NOW, accepted in RUNNING. VOICE_ON sets the live enables of the mask's
voices, marks those it switched on newly enabled, re-plans all voices against them, and so leaves none
marked (R40). VOICE_OFF clears the live enables and, for each voice it switched off that was not still
marked, hands an enable claim with the enable clear, without a re-plan (R41). No other enable, no live or
deferred mode, and neither key, chord nor hold flag changes. Executed at any state, from a list or at
once, they do the same, but that a VOICE_ON of the ONSET list marks and makes no re-plan (R40, R41, R128).
A re-plan plans the voices in index order, each against those before it, then hands each result in index
order: a newly enabled voice's with its enable claim, any other's where the note it was handed last has
changed, as an update or, without note or shift, a withdrawal (R40, R48). A claim at a record no tap read
holds is taken at once (R76). An enable claim with the enable set wakes a SILENT voice to PARKED or finds
a LEAVING one, with its target taken as an update (TargetUpdateTaken; the glide step in LEAVING is the
model's reading, notes/assumptions/14.md), or with none drops the target (R65); with the enable clear it
silences a PARKED voice and makes an ENTERING or SOUNDING one LEAVING (R66). A withdrawal drops the target
and makes an ENTERING or SOUNDING voice LEAVING (R68). A shift update replaces the shift, with a glide
step where the voice has a position (R69, R70). What claims that cannot arrive leave, a shift update
without a target and a disable in SILENT, is the model's (notes/assumptions/22.md). -/
def Obligations.VoiceOnAndOffCues : Prop :=
  (∀ (s : State) (dest mask : Byte), s.setup.engine = .running → listening s dest →
    1 ≤ mask.toNat → mask.toNat ≤ 15 →
    (∃ marked t, exec (.voiceOn dest .now mask 0) s = .next t ∧
      t = replanAll marked ∧
      marked = { s with
        pd := none, crx := heard s, pln := { s.pln with voices := marked.pln.voices } } ∧
      (∀ v : Fin 4, planOf marked v =
        if mask.getLsbD v.val = true ∧ (planOf s v).enable = false then
          { planOf s v with enable := true, newlyEnabled := true }
        else planOf s v) ∧
      planOnly s { t with crx := s.crx } ∧ t.crx = heard s ∧
      t.pln = { s.pln with voices := t.pln.voices } ∧
      ∀ v : Fin 4, (planOf t v).enable = ((planOf s v).enable || mask.getLsbD v.val) ∧
        (planOf t v).newlyEnabled = false ∧ (planOf t v).live = (planOf s v).live ∧
        (planOf t v).deferredMode = (planOf s v).deferredMode) ∧
    (∃ cleared t, exec (.voiceOff dest .now mask 0) s = .next t ∧
      t = ([0, 1, 2, 3].filter (fun v : Fin 4 => mask.getLsbD v.val && (planOf s v).enable &&
        !(planOf s v).newlyEnabled)).foldl (fun u v => handClaim u v .disable) cleared ∧
      cleared = { s with
        pd := none, crx := heard s, pln := { s.pln with voices := cleared.pln.voices } } ∧
      (∀ v : Fin 4, planOf cleared v =
        if mask.getLsbD v.val = true ∧ (planOf s v).enable = true then
          { planOf s v with enable := false, newlyEnabled := false }
        else planOf s v) ∧
      t.pln = cleared.pln ∧ t.rpt = s.rpt ∧ planOnly s { t with crx := s.crx } ∧
      t.crx = heard s)) ∧
  (∀ (u : State) (fromOnset : Bool) (mask : BitVec 4),
    (∃ marked, marked = { u with pln := { u.pln with voices := marked.pln.voices } } ∧
      (∀ v : Fin 4, planOf marked v =
        if mask.getLsbD v.val = true ∧ (planOf u v).enable = false then
          { planOf u v with enable := true, newlyEnabled := true }
        else planOf u v) ∧
      executeMusical fromOnset (.voiceOn mask) u =
        if fromOnset then marked else replanAll marked) ∧
    ∃ cleared, cleared = { u with pln := { u.pln with voices := cleared.pln.voices } } ∧
      (∀ v : Fin 4, planOf cleared v =
        if mask.getLsbD v.val = true ∧ (planOf u v).enable = true then
          { planOf u v with enable := false, newlyEnabled := false }
        else planOf u v) ∧
      executeMusical fromOnset (.voiceOff mask) u =
        ([0, 1, 2, 3].filter (fun v : Fin 4 => mask.getLsbD v.val && (planOf u v).enable &&
          !(planOf u v).newlyEnabled)).foldl (fun t v => handClaim t v .disable) cleared) ∧
  (∀ u : State,
    let planned := planVoice (planVoice (planVoice (planVoice u 0 []) 1 [0]) 2 [0, 1]) 3 [0, 1, 2]
    replanAll u = handVoice (handVoice (handVoice (handVoice planned 0) 1) 2) 3) ∧
  (∀ (u : State) (v : Fin 4),
    let p := planOf u v
    let target : Option Target := p.note.bind (fun n => p.shift.map (fun x => ⟨n, x⟩))
    let given := setPlan u v { p with handed := target.map (·.note), newlyEnabled := false }
    (p.newlyEnabled = true → handVoice u v = handClaim given v (.enable target)) ∧
    (p.newlyEnabled = false →
      (target.map (·.note) = p.handed → handVoice u v = given) ∧
      (target.map (·.note) ≠ p.handed →
        (∀ x, target = some x → handVoice u v = handClaim given v (.update x)) ∧
        (target = none → handVoice u v = handClaim given v .withdraw)))) ∧
  (∀ (u : State) (v : Fin 4) (c : Claim),
    (∀ r, u.bus.cycle = some (.tap r) → r.offset < 8 ∧ r.offset % 4 ≠ v.val) →
    let claimed := claimOn u (voiceSetup u v).glide.toNat c (voiceOf u v)
    handClaim u v c = { u with vce := { u.vce with voices := u.vce.voices.set v claimed } }) ∧
  ∀ (s : State) (glide : Nat) (r : VoiceRecord),
    let takes (c : Claim) (x : VoiceRecord) : Prop := claimOn s glide c r = x
    let dropped (x : VoiceRecord) : VoiceRecord :=
      { x with targetChanged := x.targetChanged || x.target.isSome, target := none }
    (r.state = .silent →
      takes (.enable none) (dropped { r with enable := true, state := .parked }) ∧
      ∀ u, takes (.enable (some u))
        (claimOn s glide (.update u) { r with enable := true, state := .parked })) ∧
    (r.state = .leaving → r.enable = false →
      takes (.enable none) (dropped { r with enable := true }) ∧
      ∀ u, takes (.enable (some u)) (claimOn s glide (.update u) { r with enable := true })) ∧
    (r.state = .parked → takes .disable { r with enable := false, state := .silent }) ∧
    (r.state = .silent ∨ r.state = .leaving → takes .disable { r with enable := false }) ∧
    (r.state = .entering ∨ r.state = .sounding →
      takes .disable { r with enable := false, state := .leaving } ∧
      takes .withdraw { dropped r with state := .leaving }) ∧
    (r.state = .silent ∨ r.state = .parked ∨ r.state = .leaving → takes .withdraw (dropped r)) ∧
    ∀ x : Int, (r.target = none → takes (.shift x) r) ∧
      ∀ u, r.target = some u →
        let shifted : VoiceRecord := { r with target := some { u with shift := x } }
        let current : Int :=
          if (x - r.current).natAbs ≤ glide then x
          else if r.current < x then r.current + glide else r.current - glide
        (r.state = .silent ∨ r.state = .parked ∨ x = r.current → takes (.shift x) shifted) ∧
        (r.state = .entering ∨ r.state = .sounding ∨ r.state = .leaving → x ≠ r.current →
          takes (.shift x) { shifted with current := current, ratio := ratioOf current })

/-- VOICE_MODE, HOLD and RELEASE due NOW, accepted in RUNNING. VOICE_MODE sets its voice's mode and
parameter and re-plans that voice alone, against the notes of all others, or during hold the deferred mode
alone; the fallback degrees and the other voices' plans are kept (R39, R42, R49, R52). HOLD sets the hold
flag and nothing else (R51). RELEASE applies the deferred key, chord and modes, makes them absent, clears
the flag and re-plans all voices (R54). Executed at any state, from a list or at once, they do the same, but
that a cue of the ONSET list makes no re-plan of its own (R42, R54, R128). -/
def Obligations.ModeHoldAndReleaseCues : Prop :=
  (∀ (s : State) (dest : Byte), s.setup.engine = .running → listening s dest →
    (∀ (voice mode parameter : Byte) (m : Mode), voice.toNat ≤ 3 →
      Mode.ofCode mode.toNat = some m → m.inRange parameter.toInt = true →
      ∃ t, exec (.voiceMode dest .now voice mode parameter 0) s = .next t ∧
        planOnly s { t with crx := s.crx } ∧ t.crx = heard s ∧
        t.pln = { s.pln with voices := t.pln.voices } ∧
        (∀ v : Fin 4, v.val ≠ voice.toNat → planOf t v = planOf s v) ∧
        ∀ v : Fin 4, v.val = voice.toNat →
          (s.pln.hold = false →
            (let moded := setPlan { s with pd := none, crx := heard s } v { planOf s v with
                live := ⟨m, parameter.toInt, (planOf s v).live.fallback⟩ };
              t = handVoice (planVoice moded v ([0, 1, 2, 3].filter (fun w => decide (w ≠ v)))) v) ∧
            (planOf t v).live = ⟨m, parameter.toInt, (planOf s v).live.fallback⟩ ∧
            (planOf t v).enable = (planOf s v).enable ∧
            (planOf t v).deferredMode = (planOf s v).deferredMode) ∧
          (s.pln.hold = true →
            t = { s with
              pd := none
              crx := heard s
              pln := { s.pln with voices := s.pln.voices.set v { planOf s v with
                deferredMode := some (m, parameter.toInt) } } })) ∧
    (∃ t, exec (.hold dest .now 0) s = .next t ∧
      t = { s with pd := none, crx := heard s, pln := { s.pln with hold := true } }) ∧
    ∃ released t, exec (.release dest .now 0) s = .next t ∧ t = replanAll released ∧
      released = { s with pd := none, crx := heard s, pln := released.pln } ∧
      released.pln = { t.pln with voices := released.pln.voices } ∧
      (∀ v : Fin 4, planOf released v = { planOf s v with
        deferredMode := none
        live := (match (planOf s v).deferredMode with
          | some (m, x) => ⟨m, x, (planOf s v).live.fallback⟩
          | none => (planOf s v).live) }) ∧
      planOnly s { t with crx := s.crx } ∧ t.crx = heard s ∧ t.pln.hold = false ∧
      t.pln.key = s.pln.deferredKey.getD s.pln.key ∧
      (∀ c, s.pln.deferredChord = some c → t.pln.chord =
        c.bind (fun c => if shapeMask s c.shape = 0 then none else some c)) ∧
      (s.pln.deferredChord = none → t.pln.chord = s.pln.chord) ∧
      t.pln.deferredKey = none ∧ t.pln.deferredChord = none ∧
      ∀ v : Fin 4, (planOf t v).deferredMode = none ∧
        (planOf t v).enable = (planOf s v).enable ∧
        (∀ m x, (planOf s v).deferredMode = some (m, x) →
          (planOf t v).live = ⟨m, x, (planOf s v).live.fallback⟩) ∧
        ((planOf s v).deferredMode = none → (planOf t v).live = (planOf s v).live)) ∧
  ∀ (u : State) (fromOnset : Bool),
    (∀ (v : Fin 4) (m : Mode) (parameter : Int),
      let p := planOf u v
      (u.pln.hold = true → executeMusical fromOnset (.voiceMode v m parameter) u =
        setPlan u v { p with deferredMode := some (m, parameter) }) ∧
      (u.pln.hold = false →
        let moded := setPlan u v { p with live := ⟨m, parameter, p.live.fallback⟩ }
        executeMusical fromOnset (.voiceMode v m parameter) u =
          if fromOnset then moded
          else handVoice (planVoice moded v ([0, 1, 2, 3].filter (fun w => decide (w ≠ v)))) v)) ∧
    executeMusical fromOnset .hold u = { u with pln := { u.pln with hold := true } } ∧
    ∃ released,
      released = { u with pln := ⟨u.pln.deferredKey.getD u.pln.key,
        (match u.pln.deferredChord with
          | some c => c.bind (fun c => if shapeMask u c.shape = 0 then none else some c)
          | none => u.pln.chord), false, none, none, released.pln.voices⟩ } ∧
      (∀ v : Fin 4, planOf released v = { planOf u v with
        deferredMode := none
        live := (match (planOf u v).deferredMode with
          | some (m, x) => ⟨m, x, (planOf u v).live.fallback⟩
          | none => (planOf u v).live) }) ∧
      executeMusical fromOnset .release u = if fromOnset then released else replanAll released

/-- TIMEBASE and CLEAR, accepted in RUNNING. TIMEBASE sets the sample count; C, the fill, the offset and
the ONSET list are kept (R10). The entries not due against the new count stay in the AT list, ordered by
distance, equal ones in their old order; those due leave it and are executed in their old order, each
with its CUE_LATE, detail REBASE, with the lateness and the stamp (R133). CLEAR empties both lists and
changes nothing else (R134). -/
def Obligations.TimebaseAndClearCues : Prop :=
  (∀ (s : State) (dest : Byte), s.setup.engine = .running → listening s dest →
    (∀ count : Word,
      let away (e : AtEntry) : Nat := (e.stamp - count).toNat
      let due (e : AtEntry) : Bool := decide (away e = 0 ∨ 2147483648 ≤ away e)
      ∃ t, exec (.timebase dest .now count 0) s = .next t ∧
      t = executeLate s.csc.atList { s with
        pd := none, crx := heard s, cap := { s.cap with count := count },
        csc := { s.csc with atList := t.csc.atList } } ∧
      (∀ n : Nat, t.csc.atList.filter (fun e => decide (away e = n)) =
        s.csc.atList.filter (fun e => decide (away e = n) && !due e)) ∧
      t.csc.atList.Pairwise (fun x y => away x ≤ away y) ∧
      t.cap = { s.cap with count := count } ∧ t.csc.onsetList = s.csc.onsetList ∧
      planOnly s { t with crx := s.crx, cap := s.cap, csc := s.csc } ∧ t.crx = heard s) ∧
    exec (.clear dest .now 0) s =
      .next { s with pd := none, crx := heard s, csc := ⟨[], []⟩ }) ∧
  ∀ u : State, executeLate [] u = u ∧
    ∀ (e : AtEntry) (rest : List AtEntry),
      let due : Prop :=
        (e.stamp - u.cap.count).toNat = 0 ∨ 2147483648 ≤ (e.stamp - u.cap.count).toNat
      (due → executeLate (e :: rest) u = executeLate rest (executeMusical false e.cue
        (raiseEvent u
          ⟨.cueLate, 2, none, u.cap.count - e.stamp, e.stamp, u.cap.count⟩))) ∧
      (¬ due → executeLate (e :: rest) u = executeLate rest u)

/-- Any cue row that is heard and not executed. A CRC that differs discards the message with LINK_BAD_CRC
carrying the received and the computed CRC (R121). A TIMEBASE due AT has an L of 10: LINK_BAD_CUE, LENGTH,
before its CRC (R120). The places 1 of LENGTH and 2 of NOT_NOW are DEDUCED (notes/assumptions/33.md). A
right CRC and a body that fails: LINK_BAD_CUE with the first check's detail, the character and its place
(R126, R136): NOT_NOW, the first payload character out of range, or a shape not defined. A sound message
in HALTED is dropped with CUE_DROPPED carrying its due, kind and stamp (R127). The receiver returns to
ASLEEP. A message to another part leaves no trace (R119). A receiver that is OFF or IN_BREAK takes nothing
(R118, R125). Nothing else changes; the line is high, and a fall in ASLEEP has brought the active divisor
into force (R117). -/
def Obligations.CuesTurnedAway : Prop :=
  ∀ (i : Instr) (dest kind : Byte) (due : Due) (payload : List Byte) (e : BitVec 16) (s : State),
    i.cueMessage? = some (dest, kind, due, payload, e) →
    let ends (divisor : BitVec 12) (x : Event) : Prop := exec i s = .next { s with
      pd := none, crx := { heard s with divisor := divisor }, rpt := (raiseEvent s x).rpt }
    let stampChars : Nat := match due with
      | .now => 0
      | .atStamp _ => 4
      | .onset => 0
    let badCue (detail value : Byte) (place : Nat) : Prop :=
      ends (fallDivisor s)
        ⟨.linkBadCue, detail, none, value.setWidth 32, BitVec.ofNat 32 place, s.cap.count⟩
    (listening s dest →
      (e ≠ 0 → (kind = 8 → due.isNow = true ∨ due = .onset) →
        let computed := crcOf ((messageChars kind due payload 0).take
          ((messageChars kind due payload 0).length - 2))
        ends (fallDivisor s) ⟨.linkBadCrc, 0, none, (computed ^^^ e).setWidth 32,
          computed.setWidth 32, s.cap.count⟩) ∧
      (kind = 8 → (∃ stamp, due = .atStamp stamp) → ends s.setup.active.general.divisor
        ⟨.linkBadCue, 1, none, 10, 1, s.cap.count⟩) ∧
      (e = 0 → ((kind = 8 ∧ due = .onset) ∨ (kind = 9 ∧ due ≠ .now)) → badCue 4 kind 2) ∧
      (e = 0 → kind.toNat ≤ 7 →
        (∀ k, ¬ payloadLegal kind payload k → (∀ m < k, payloadLegal kind payload m) →
          badCue 5 (payload.getD k 0) (4 + stampChars + k)) ∧
        ((∀ k, payloadLegal kind payload k) → ¬ shapeDefined s kind payload →
          badCue 6 (payload.getD 1 0) (5 + stampChars))) ∧
      (i.wellFormed = true → shapeDefined s kind payload → s.setup.engine = .halted →
        ends (fallDivisor s) ⟨.cueDropped, dueCode due, none, kind.setWidth 32,
          (match due with
            | .now => 0
            | .atStamp stamp => stamp
            | .onset => 0), s.cap.count⟩)) ∧
    (s.crx.state = .asleep → ¬ namesPart s dest → exec i s = .next { s with
      pd := none
      crx := { s.crx with divisor := s.setup.active.general.divisor, lineLow := false } }) ∧
    (s.crx.state = .off ∨ s.crx.state = .inBreak →
      exec i s = .next { s with pd := none, crx := { s.crx with lineLow := false } })

/-- A cue row heard and accepted in RUNNING, with the cue of its payload (R126, R128), by its due kind
(R130). NOW: executed. AT a stamp that is due: executed, and where the stamp has passed, first a CUE_LATE,
detail ACCEPT, with the lateness and the stamp (R130, R137). AT any other stamp: it joins the AT list after
every entry of no greater distance and before every greater one. ONSET: it joins the end of the ONSET
list. With 24 cues listed it is refused with CUE_OVERFLOW (R130, R137). Nothing else changes. -/
def Obligations.CuesJoinTheirList : Prop :=
  ∀ (i : Instr) (dest kind : Byte) (due : Due) (payload : List Byte) (s : State),
    i.cueMessage? = some (dest, kind, due, payload, 0) → i.wellFormed = true →
    shapeDefined s kind payload → listening s dest → s.setup.engine = .running →
    let taken : State := { s with pd := none, crx := heard s }
    (due = .now → ∀ cue, cueOf kind payload = some (.musical cue) →
      exec i s = .next (executeMusical false cue taken)) ∧
    (∀ stamp, due = .atStamp stamp → ∃ cue, cueOf kind payload = some (.musical cue) ∧
      ((stamp - s.cap.count).toNat = 0 → exec i s = .next (executeMusical false cue taken)) ∧
      (2147483648 ≤ (stamp - s.cap.count).toNat → exec i s = .next (executeMusical false cue
        { taken with rpt := (raiseEvent s
          ⟨.cueLate, 1, none, s.cap.count - stamp, stamp, s.cap.count⟩).rpt })) ∧
      ((stamp - s.cap.count).toNat ≠ 0 → (stamp - s.cap.count).toNat < 2147483648 →
        (s.csc.atList.length + s.csc.onsetList.length < 24 →
          ∃ before after, s.csc.atList = before ++ after ∧
            exec i s = .next { taken with
              csc := { s.csc with atList := before ++ (⟨cue, stamp⟩ :: after) } } ∧
            (∀ x ∈ before, (x.stamp - s.cap.count).toNat ≤ (stamp - s.cap.count).toNat) ∧
            ∀ x, after.head? = some x →
              (stamp - s.cap.count).toNat < (x.stamp - s.cap.count).toNat) ∧
        (24 ≤ s.csc.atList.length + s.csc.onsetList.length →
          exec i s = .next { taken with
            rpt := (raiseEvent s
              ⟨.cueOverflow, 1, none, kind.setWidth 32, stamp, s.cap.count⟩).rpt }))) ∧
    (due = .onset → ∃ cue, cueOf kind payload = some (.musical cue) ∧
      (s.csc.atList.length + s.csc.onsetList.length < 24 →
        exec i s = .next { taken with
          csc := { s.csc with onsetList := s.csc.onsetList ++ [cue] } }) ∧
      (24 ≤ s.csc.atList.length + s.csc.onsetList.length →
        exec i s = .next { taken with
          rpt := (raiseEvent s
            ⟨.cueOverflow, 2, none, kind.setWidth 32, 0, s.cap.count⟩).rpt }))

/-- LINK_CHARACTER_TAKEN (its signals: log 11). A fall in ASLEEP brings the active divisor into force
(R117; log 13), in AWAKE it stops the timer (R122), and a line low already has no second fall (R116). A
high start bit was noise, and the timer runs on (R116, R122); after a low stop bit the line stays low and
nothing is judged (R116). A taken character: OFF and IN_BREAK take nothing (R118, R125). In ASLEEP an
address character that names the part wakes it with an empty buffer and the timer running, any other, and
data, leaves it ASLEEP (R119). In AWAKE an address character ends the message with LINK_TRUNCATED,
ADDRESS, and is compared as in ASLEEP (R123); a data character joins the buffer and restarts the timer; an
L below 2 or above 9 ends it with LINK_BAD_CUE, LENGTH (R120). The last one completes the message:
LINK_BAD_CRC where the CRC differs (R121), LINK_BAD_CUE where the body fails, by the first check to fail,
else the cue is accepted (R126, R127); the events are those of section 7.7. The CRC register is preset to
FFFFh and takes each character's eight bits most significant first: it shifts left, and 1021h is added
where the bit and its top bit differed (R121). A cue row is its characters taken one by one (R120).
DEDUCED: the line's level, followed in OFF and IN_BREAK too (notes/assumptions/21.md), and the places of
LENGTH and NOT_NOW (33.md). -/
def Obligations.LinkCharacters : Prop :=
  (∀ (s : State) (line : BitVec 11),
    let value : Byte := line.extractLsb' 1 8
    let after (r : Receiver) : State := { s with pd := none, crx := r }
    let asleep : Receiver :=
      { s.crx with state := .asleep, buffer := [], timer := false, lineLow := false }
    let fails (x : Event) : State := { after asleep with rpt := (raiseEvent s x).rpt }
    let takes (t : State) : Prop := line.getLsbD 0 = false → line.getLsbD 10 = true →
      exec (.linkCharacterTaken (.samples line)) s = .next t
    let rated : Receiver := { s.crx with divisor := fallDivisor s, lineLow := false }
    (exec (.linkCharacterTaken .fall) s = .next (after
      (if s.crx.lineLow then s.crx else { s.crx with
        lineLow := true
        divisor := if s.crx.state = .asleep then s.setup.active.general.divisor else s.crx.divisor
        timer := if s.crx.state = .awake then false else s.crx.timer }))) ∧
    (line.getLsbD 0 = true → exec (.linkCharacterTaken (.samples line)) s = .next (after
      (if s.crx.state = .asleep then rated else { s.crx with
        lineLow := false
        timer := if s.crx.state = .awake then true else s.crx.timer }))) ∧
    (line.getLsbD 0 = false → line.getLsbD 10 = false →
      exec (.linkCharacterTaken (.samples line)) s = exec (.linkCharacterTaken .fall) s) ∧
    (s.crx.state = .off ∨ s.crx.state = .inBreak →
      takes (after { s.crx with lineLow := false })) ∧
    (s.crx.state = .asleep →
      (line.getLsbD 9 = true → namesPart s value →
        takes (after { rated with state := .awake, buffer := [], timer := true })) ∧
      (line.getLsbD 9 = true → ¬ namesPart s value → takes (after rated)) ∧
      (line.getLsbD 9 = false → takes (after rated))) ∧
    (s.crx.state = .awake → line.getLsbD 9 = true →
      let cut := fails ⟨.linkTruncated, 2, none, BitVec.ofNat 32 s.crx.buffer.length,
        value.setWidth 32, s.cap.count⟩
      (namesPart s value → takes { cut with crx := { asleep with state := .awake, timer := true } }) ∧
      (¬ namesPart s value → takes cut)) ∧
    (s.crx.state = .awake → line.getLsbD 9 = false →
      let chars := s.crx.buffer ++ [value]
      let size := (chars.getD 0 0).toNat
      let bad (detail x : Byte) (place : Nat) : Prop :=
        takes (fails ⟨.linkBadCue, detail, none, x.setWidth 32, BitVec.ofNat 32 place, s.cap.count⟩)
      (size < 2 ∨ 9 < size → bad 1 (chars.getD 0 0) 1) ∧
      (2 ≤ size → size ≤ 9 → chars.length ≠ size + 3 → takes (after { s.crx with
        buffer := chars, timer := true, lineLow := false })) ∧
      (2 ≤ size → size ≤ 9 → chars.length = size + 3 →
        let received : BitVec 16 := chars.getD (size + 2) 0 ++ chars.getD (size + 1) 0
        let computed := crcOf (chars.take (size + 1))
        let kind := chars.getD 1 0
        let code := chars.getD 2 0
        let stampChars := if code.toNat = 1 then 4 else 0
        let payload := (chars.take (size + 1)).drop (3 + stampChars)
        let payloadChars := [0, 2, 2, 1, 1, 3, 0, 0, 4, 0].getD kind.toNat 0
        (received ≠ computed → takes (fails ⟨.linkBadCrc, 0, none, received.setWidth 32,
          computed.setWidth 32, s.cap.count⟩)) ∧
        (received = computed →
          (kind.toNat = 0 ∨ 9 < kind.toNat → bad 2 kind 2) ∧
          (1 ≤ kind.toNat → kind.toNat ≤ 9 →
            (2 < code.toNat → bad 3 code 3) ∧
            (code.toNat ≤ 2 →
              (size ≠ 2 + stampChars + payloadChars → bad 1 (chars.getD 0 0) 1) ∧
              (size = 2 + stampChars + payloadChars →
                (8 ≤ kind.toNat → code.toNat ≠ 0 → bad 4 kind 2) ∧
                (kind.toNat ≤ 7 ∨ code.toNat = 0 →
                  (∀ k, ¬ payloadLegal kind payload k →
                    (∀ m < k, payloadLegal kind payload m) →
                    bad 5 (payload.getD k 0) (4 + stampChars + k)) ∧
                  ((∀ k, payloadLegal kind payload k) →
                    (¬ shapeDefined s kind payload → bad 6 (payload.getD 1 0) (5 + stampChars)) ∧
                    (shapeDefined s kind payload →
                      ∃ cue, cueOf kind payload = some cue ∧
                        takes (acceptCue (after asleep) cue
                          (if code.toNat = 0 then .now
                            else if code.toNat = 1 then
                              .atStamp (chars.getD 6 0 ++ chars.getD 5 0 ++ chars.getD 4 0 ++
                                chars.getD 3 0)
                            else .onset)))))))))))) ∧
  (crcOf [] = 0xFFFF ∧
    ∀ (chars : List Byte) (c : Byte),
      crcOf (chars ++ [c]) =
        [7, 6, 5, 4, 3, 2, 1, 0].foldl (fun (register : BitVec 16) (k : Nat) =>
          if c.getLsbD k = register.getLsbD 15 then register <<< 1
          else (register <<< 1) ^^^ 0x1021) (crcOf chars)) ∧
  ∀ (i : Instr) (dest kind : Byte) (due : Due) (payload : List Byte) (e : BitVec 16) (s : State),
    i.cueMessage? = some (dest, kind, due, payload, e) →
    exec i s = takenOneByOne (charLine true dest ::
      (messageChars kind due payload e).map (charLine false)) s

/-- The failures of the link. LINK_BAD_CHAR: the line rises; a framing error in ASLEEP or AWAKE is reported
with the character's value and the number of characters in assembly, and the receiver is ASLEEP
(R124, R136). LINK_BREAK: the line is low; the receiver becomes IN_BREAK with one event, at the divisor its
fall found or brought (R117, R125). BREAK_END: IN_BREAK becomes ASLEEP with the line high (R125). In OFF, and
in a break, the level of the line alone follows (R118, R125; held as logs 11 and 21 say); a line low as
START leaves OFF counts as fallen then (R118): LINK_BREAK finds the divisor START set. LINK_TRUNCATED: the
timer running in AWAKE expires, and the receiver becomes ASLEEP (R122). The divisor is as in LinkCharacters
(log 13). -/
def Obligations.LinkFailures : Prop :=
  ∀ s : State,
    let detail : Byte := if s.crx.state = .awake then 2 else 1
    let count : Word := BitVec.ofNat 32 s.crx.buffer.length
    let rated : Receiver := if s.crx.state = .asleep then
      { s.crx with divisor := fallDivisor s } else s.crx
    (∀ line : BitVec 11, s.crx.state = .asleep ∨ s.crx.state = .awake →
      exec (.linkBadChar line) s = .next { s with
        pd := none
        crx := (if s.crx.state = .awake then
          { s.crx with state := .asleep, buffer := [], timer := false, lineLow := false }
        else { rated with lineLow := false })
        rpt := (raiseEvent s ⟨.linkBadChar, detail, none,
          (line.extractLsb' 1 8 : Byte).setWidth 32, count, s.cap.count⟩).rpt }) ∧
    (s.crx.state = .asleep ∨ s.crx.state = .awake →
      exec .linkBreak s = .next { s with
        pd := none
        crx := { rated with state := .inBreak, buffer := [], timer := false, lineLow := true }
        rpt := (raiseEvent s ⟨.linkBreak, detail, none, count, 0, s.cap.count⟩).rpt }) ∧
    (s.crx.state = .inBreak → exec .breakEnd s = .next { s with
      pd := none
      crx := { s.crx with state := .asleep, buffer := [], timer := false, lineLow := false } }) ∧
    (s.crx.state = .off ∨ s.crx.state = .inBreak →
      (∀ line : BitVec 11, exec (.linkBadChar line) s =
        .next { s with pd := none, crx := { s.crx with lineLow := false } }) ∧
      exec .linkBreak s = .next { s with pd := none, crx := { s.crx with lineLow := true } }) ∧
    (s.crx.state = .off →
      exec .breakEnd s = .next { s with pd := none, crx := { s.crx with lineLow := false } }) ∧
    (s.crx.state = .awake → s.crx.timer = true →
      exec .linkTruncated s = .next { s with
        pd := none, crx := { s.crx with state := .asleep, buffer := [], timer := false }
        rpt := (raiseEvent s ⟨.linkTruncated, 1, none, count, 0, s.cap.count⟩).rpt })

/-! ### Tap reads (04, 05, 06) -/

/-- The status reads. VOICE_STATUS_READ at offset 12 + v returns voice v's state, target note, current
shift, crossfading, CLIPPED and TARGET_CHANGED and clears the two flags (R74); TRACKER_STATUS_READ at
offset 16 returns the sung note, the latest record's voiced, confidence and headroom, NEW_RECORD and
SKIPPED and clears the two (R33); MIX_STATUS_READ at offset 18 returns mix CLIPPED and clears it
(R108). Offset 17 returns the latest record's pitch value and period with their present bits (R33), offsets
19 and 20 C and the sample count (R11), offsets 10, 11 and 21 up zero (R102), and these clear nothing. The
bits are those of section 11.4. None changes anything else (R109). -/
def Obligations.StatusReads : Prop :=
  ∀ (s : State) (a : Addr), portFree s →
    (∀ v : Fin 4, classify s a = some (.tap, 12 + v.val) →
      let r := voiceOf s v
      ∃ t w, exec (.voiceStatusRead a) s = .next t ∧
        t = grant { s with
          pd := some w,
          vce := { s.vce with
            voices := s.vce.voices.set v { r with clipped := false, targetChanged := false } } } ∧
        w.extractLsb' 0 3 = r.state.code ∧ w.extractLsb' 3 5 = 0 ∧
        w.extractLsb' 8 8 = (match r.target with
          | none => (255 : BitVec 8)
          | some x => BitVec.ofNat 8 x.note) ∧
        w.extractLsb' 16 13 = BitVec.ofInt 13 r.current ∧
        w.getLsbD 29 = r.xfade.isSome ∧ w.getLsbD 30 = r.clipped ∧
        w.getLsbD 31 = r.targetChanged) ∧
    (classify s a = some (.tap, 16) →
      ∃ t w, exec (.trackerStatusRead a) s = .next t ∧
        t = grant { s with
          pd := some w, trk := { s.trk with newRecord := false, skipped := false } } ∧
        w.extractLsb' 0 8 = (match s.trk.sung with
          | none => (255 : BitVec 8)
          | some n => BitVec.ofNat 8 n) ∧
        w.extractLsb' 9 7 = 0 ∧ w.getLsbD 29 = false ∧
        w.getLsbD 30 = s.trk.newRecord ∧ w.getLsbD 31 = s.trk.skipped ∧
        (s.trk.history = [] → w.getLsbD 8 = false ∧ w.extractLsb' 16 8 = 0 ∧
          w.extractLsb' 24 5 = 23) ∧
        ∀ x rest, s.trk.history = x :: rest → w.getLsbD 8 = x.voiced ∧
          w.extractLsb' 16 8 = BitVec.ofNat 8 x.confidence ∧
          w.extractLsb' 24 5 = BitVec.ofNat 5 x.headroom) ∧
    (classify s a = some (.tap, 18) →
      exec (.mixStatusRead a) s = .next (grant { s with
        pd := some (if s.vce.mixClipped then 1 else 0)
        vce := { s.vce with mixClipped := false } })) ∧
    (classify s a = some (.tap, 17) →
      ∃ w, exec (.processorRead a) s = .next (grant { s with pd := some w }) ∧
        w.getLsbD 31 = false ∧
        (∀ pitch : Option Nat, s.trk.history.head?.bind (·.pitch) = pitch →
          w.getLsbD 14 = pitch.isSome ∧ w.extractLsb' 0 14 = BitVec.ofNat 14 (pitch.getD 0)) ∧
        ∀ period : Option Nat, s.trk.history.head?.bind (·.period) = period →
          w.getLsbD 30 = period.isSome ∧ w.extractLsb' 15 15 = BitVec.ofNat 15 (period.getD 0)) ∧
    (let returns (w : Word) : Prop :=
        exec (.processorRead a) s = .next (grant { s with pd := some w });
      (classify s a = some (.tap, 19) → returns s.cap.c) ∧
      (classify s a = some (.tap, 20) → returns s.cap.count) ∧
      ∀ n, classify s a = some (.tap, n) → n = 10 ∨ n = 11 ∨ 21 ≤ n → returns 0)

/-- The stream and peek reads. In HALTED, or where no voice concerned has a position, each returns zero
and moves nothing (R104 to R107, R110). In RUNNING a steady SOUNDING voice inside the hard window,
with both its words in the write post queue, is read at once: the two samples are interpolated,
weighted by gain and fade, rounded once and saturated; a stream read advances P by the ratio where
the lag then lies inside the lag window, a peek read moves nothing; a saturation sets CLIPPED and
raises CLIP where it was clear (R71, R72, R83, R89, R90, R95). A mix read with no other voice at a
position returns the same sample where nothing saturates, and moves the voice the same way (R106,
R107). In general, in RUNNING, the voices concerned that have a position are done in index order. Each is
hard checked, with its HARD_SPLICEs, and fetches the two words of P, then those of Q, at ring slot
(o + p) mod size (R86, R87, R111). The queue serves what it holds; at the first word memory must serve the
read is held with that fetch next; with none left the voice is finished, and the next begins (R106, R111).
A finished voice adds its saturated output to the sum; a saturation sets its CLIPPED, with one CLIP where it
was clear (R72); only a stream read moves it (R83). The output is the value interpolated at P, or the blend
of P's and Q's by k of L, weighted by gain and fade over XF and rounded once, an exact half away from zero
(R71, R88). A word of the INPUT window is read as a sample, and a saturated value laid into the word
returned, by the format of that window's entry: S16R in the low 16 bits with bit 15 copied upwards, S24R in
the low 24 with bit 23, S24L in the high 24 over zero bits (R103). The read keeps the splice period of its
taking: the newest voiced record's period in whole samples, an exact half up, or none (R26). -/
def Obligations.StreamAndPeekReads : Prop :=
  (∀ (s : State) (a : Addr) (n : Nat), portFree s → classify s a = some (.tap, n) →
    (n ≤ 9 →
      s.setup.engine = .halted ∨ (s.setup.engine = .running ∧
        ∀ v : Fin 4, 8 ≤ n ∨ n % 4 = v.val → (voiceOf s v).p = none) →
      ∀ i ∈ [Instr.voiceStreamRead a, .voicePeekRead a, .mixStreamRead a, .mixPeekRead a],
        exec i s = .next (grant { s with pd := some 0 })) ∧
    ∀ (v : Fin 4) (p : Position) (w0 w1 : Word),
      let r := voiceOf s v
      let format := inputFormat s
      let x0 := (sampleOf format w0).toInt
      let x1 := (sampleOf format w1).toInt
      let value := roundAway ((x0 * 65536 + (x1 - x0) * fraction p) * (voiceSetup s v).gain.toNat *
        r.fade) (65536 * 1 * 128 * s.setup.active.general.xf.toNat)
      let sample := saturateFormat format (saturate24 value)
      let clips := sample ≠ value
      let moved : Position := p + BitVec.ofNat 48 r.ratio
      s.setup.engine = .running → r.state = .sounding → r.p = some p → r.xfade = none →
      2 ≤ (s.cap.c - p.extractLsb' 16 32).toInt →
      (s.cap.c - p.extractLsb' 16 32).toInt ≤ (inputSize s : Int) - 64 →
      forwarded s.bus.queue (ringAddr s (p.extractLsb' 16 32)) = some w0 →
      forwarded s.bus.queue (ringAddr s (p.extractLsb' 16 32 + 1)) = some w1 →
      65536 * (s.setup.active.general.lagLow.toNat : Int) ≤ exactLag s.cap.c moved →
      exactLag s.cap.c moved ≤ 65536 * (s.setup.active.general.lagHigh.toNat : Int) →
      let raised (detail : Byte) : ReportUnit :=
        if clips ∧ r.clipped = false then
          (raiseEvent s ⟨.clip, detail, some v, BitVec.ofInt 32 value, BitVec.ofNat 32 n,
            s.cap.count⟩).rpt
        else s.rpt
      (n = v.val → exec (.voiceStreamRead a) s = .next (grant { s with
        pd := some (sampleWord format sample), rpt := raised 1,
        vce := { s.vce with
          voices := s.vce.voices.set v
            { r with p := some moved, clipped := r.clipped || decide clips } } })) ∧
      (n = 4 + v.val → exec (.voicePeekRead a) s = .next (grant { s with
        pd := some (sampleWord format sample), rpt := raised 2,
        vce := { s.vce with
          voices := s.vce.voices.set v { r with clipped := r.clipped || decide clips } } })) ∧
      (sample = value → (∀ u : Fin 4, u ≠ v → (voiceOf s u).p = none) →
        (n = 8 → exec (.mixStreamRead a) s = .next (grant { s with
          pd := some (sampleWord format sample)
          vce := { s.vce with voices := s.vce.voices.set v { r with p := some moved } } })) ∧
        (n = 9 → exec (.mixPeekRead a) s =
          .next (grant { s with pd := some (sampleWord format sample) })))) ∧
  (∀ (s : State) (a : Addr) (n : Nat), portFree s → classify s a = some (.tap, n) → n ≤ 9 →
    s.setup.engine = .running →
    ∀ i ∈ [Instr.voiceStreamRead a, .voicePeekRead a, .mixStreamRead a, .mixPeekRead a],
    ∀ voices : List (Fin 4),
      (8 ≤ n → voices = [0, 1, 2, 3]) → (n < 8 → ∃ v : Fin 4, v.val = n % 4 ∧ voices = [v]) →
      exec i s = .next (grant (settleTap (runVoices voices { s with pd := none }
        ⟨a, n, s.cap.count, s.trk.splicePeriod, [], none, [], 0, []⟩)))) ∧
  (∀ (u : State) (r : TapRead) (v : Fin 4) (more : List (Fin 4)),
    runVoices [] u r = (u, { r with todo := [], work := none }) ∧
    ((voiceOf u v).p = none → runVoices (v :: more) u r = runVoices more u r) ∧
    ∀ o p, (voiceOf u v).p ≠ none → u.cap.offset = some o →
      let checked := hardCheck u (voiceOf u v)
      let slot (x : Word) : Addr :=
        (inputEntry u).base + BitVec.ofNat 20 ((o + x.toNat) % inputSize u)
      let pair (q : Position) : List Addr :=
        [slot (q.extractLsb' 16 32), slot (q.extractLsb' 16 32 + 1)]
      let raised := raiseEvents u (checked.2.map (fun h =>
        ⟨.hardSplice, h.detail, some v, BitVec.ofInt 32 h.lag, BitVec.ofNat 32 r.offset, r.stamp⟩))
      checked.1.p = some p → ∀ (served left : List Addr) (words : List Word),
        pair p ++ (checked.1.xfade.map (fun x => pair x.q)).getD [] = served ++ left →
        served.map (forwarded u.bus.queue) = words.map some →
        (∀ b rest, left = b :: rest → forwarded u.bus.queue b = none →
          runVoices (v :: more) u r =
            (raised, { r with todo := more, work := some ⟨v, checked.1, words, left⟩ })) ∧
        (left = [] →
          let finished := finishVoice raised r ⟨v, checked.1, words, []⟩
          runVoices (v :: more) u r = runVoices more finished.1 finished.2)) ∧
  (∀ (u : State) (r : TapRead) (w : VoiceWork),
    let detail : Byte :=
      if r.offset < 4 then 1 else if r.offset < 8 then 2 else if r.offset = 8 then 3 else 4
    let value := outputValue (inputFormat u) (voiceSetup u w.voice).gain.toNat
      u.setup.active.general.xf.toNat w.record w.words
    let clips : Prop := saturate24 value ≠ value
    let record : VoiceRecord := { w.record with clipped := w.record.clipped || decide clips }
    finishVoice u r w =
      (if clips ∧ w.record.clipped = false then raiseEvent u ⟨.clip, detail, some w.voice,
          BitVec.ofInt 32 value, BitVec.ofNat 32 r.offset, r.stamp⟩ else u,
        { r with
          work := none
          moved := r.moved ++ [(w.voice,
            if r.offset < 4 ∨ r.offset = 8 then streamMoves u r.period record else record)]
          total := r.total + saturate24 value })) ∧
  (∀ (format : Format) (gain xf : Nat) (r : VoiceRecord) (words : List Word) (p : Position),
    r.p = some p → 0 < xf →
    let x (i : Nat) : ℚ := ((sampleOf format (words.getD i 0)).toInt : ℚ)
    let along (i : Nat) (q : Position) : ℚ :=
      x i + (x (i + 1) - x i) * ((q.extractLsb' 0 16).toNat / 65536)
    let rounded (blend : ℚ) : ℤ :=
      let y : ℚ := blend * (gain / 128) * (r.fade / xf)
      if 0 ≤ y then ⌊y + 1 / 2⌋ else -⌊-y + 1 / 2⌋
    (r.xfade = none → outputValue format gain xf r words = rounded (along 0 p)) ∧
    ∀ c, r.xfade = some c → 0 < c.length → outputValue format gain xf r words =
      rounded (along 0 p * ((c.length - c.k) / c.length) + along 2 c.q * (c.k / c.length))) ∧
  (∀ (u : State) (x : WindowEntry),
    u.map.entries.toList.find? (fun e => decide (Role.ofCode e.role = some .input)) = some x →
    inputSize u = x.size.toNat ∧ (x.format = 0 → inputFormat u = .s16r) ∧
      (x.format = 1 → inputFormat u = .s24r) ∧ (x.format = 2 → inputFormat u = .s24l)) ∧
  (∀ (w : Word) (i : Nat), i < 24 →
    (sampleOf .s16r w).getLsbD i = w.getLsbD (min i 15) ∧
    (sampleOf .s24r w).getLsbD i = w.getLsbD i ∧
    (sampleOf .s24l w).getLsbD i = w.getLsbD (i + 8)) ∧
  (∀ v : Int,
    saturateFormat .s16r v = max (-32768) (min 32767 v) ∧
    saturateFormat .s24r v = max (-8388608) (min 8388607 v) ∧
    saturateFormat .s24l v = max (-8388608) (min 8388607 v) ∧
    saturate24 v = max (-8388608) (min 8388607 v) ∧
    (-32768 ≤ v → v ≤ 32767 → (sampleWord .s16r v).toInt = v) ∧
    (-8388608 ≤ v → v ≤ 8388607 →
      (sampleWord .s24r v).toInt = v ∧ (sampleWord .s24l v).toInt = v * 256) ∧
    ∀ i < 32,
      (sampleWord .s16r v).getLsbD i = (BitVec.ofInt 32 v).getLsbD (min i 15) ∧
      (sampleWord .s24r v).getLsbD i = (BitVec.ofInt 32 v).getLsbD (min i 23) ∧
      (sampleWord .s24l v).getLsbD i =
        (decide (8 ≤ i) && (BitVec.ofInt 32 v).getLsbD (i - 8))) ∧
  ∀ t : Tracker,
    ((∀ x ∈ t.history, x.voiced = false) → t.splicePeriod = none) ∧
    ∀ (before after : List PitchRecord) (x : PitchRecord) (q : Nat),
      t.history = before ++ x :: after → (∀ y ∈ before, y.voiced = false) →
      x.voiced = true → x.period = some q →
      ∃ k : Nat, t.splicePeriod = some k ∧ (k : ℤ) = ⌊(q : ℚ) / 16 + 1 / 2⌋

/-- TAP_FETCH: the word memory holds joins the words of the read in flight, and those of the fetches after
it that the queue holds. At the next that memory must serve, that fetch is granted and nothing else changes
(R87, R111). With none left the voice is finished and the read goes on to its next voice, as in
StreamAndPeekReads (R106); with no voice left it completes, and a record that is then ready starts before
the grant (notes/assumptions/36.md): its sample is on PD (R104 to R107), a format saturation sets a read
voice's CLIPPED (R72), a saturated sum mix CLIPPED (R106, R108), each with one CLIP where it was clear; the
moves are applied, then the claims held for it taken in order (R76, R113). A claim for a held record waits,
any other is taken (R76). The hard check keeps, drops or re-centres each position (R84, R85). A stream
read's moves (R83): the positions advance by the ratio, and a crossfade progresses or, at its length, ends
(R89); the fade moves (R64; past XF, notes/assumptions/35.md; below 1, 31.md), and a fade out ends at 0;
then the soft check (R90): a steady voice below LAG_LOW above ratio 1, or above LAG_HIGH below ratio 1,
starts a splice, a crossfading one marks it pending (R93), and one pending starts as its crossfade ends,
whatever the ratio (R94). A splice goes to P and the fewest jumps that bring it to LAG_CENTER or past (R91,
R92). -/
def Obligations.TapFetches : Prop :=
  (∀ (s : State) (r : TapRead) (w : VoiceWork) (a : Addr) (served left : List Addr)
      (words : List Word),
    s.bus.port = some ⟨.tapFetch a, true⟩ → s.bus.cycle = some (.tap r) → r.work = some w →
    w.left = a :: served ++ left → served.map (forwarded s.bus.queue) = words.map some →
    s.resetLow = false →
    let all := w.words ++ [loadWord s a] ++ words
    (∀ b rest, left = b :: rest → forwarded s.bus.queue b = none →
      exec .tapFetch s = .next { s with
        pd := none
        bus := { s.bus with
          port := some ⟨.tapFetch b, true⟩
          cycle := some (.tap { r with work := some { w with words := all, left := left } }) } }) ∧
    (left = [] →
      let freed : State := { s with pd := none, bus := { s.bus with port := none } }
      let finished := finishVoice freed r { w with words := all, left := [] }
      let x := runVoices r.todo finished.1 finished.2
      (x.2.work ≠ none → exec .tapFetch s = .next (grant (settleTap x))) ∧
      (x.2.work = none → exec .tapFetch s = .next (grant (startReadyRecord (settleTap x)))))) ∧
  (∀ (u : State) (r : TapRead),
    (∀ w, r.work = some w →
      settleTap (u, r) = { u with bus := { u.bus with cycle := some (.tap r) } }) ∧
    (r.work = none →
      let format := inputFormat u
      let detail : Byte :=
        if r.offset < 4 then 1 else if r.offset < 8 then 2 else if r.offset = 8 then 3 else 4
      let clip (voice : Option (Fin 4)) (x : Int) : Event :=
        ⟨.clip, detail, voice, BitVec.ofInt 32 x, BitVec.ofNat 32 r.offset, r.stamp⟩
      let completes (value : Int) (moved : List (Fin 4 × VoiceRecord)) (mixClipped : Bool)
          (rpt : ReportUnit) : Prop :=
        settleTap (u, r) = r.claims.foldl (fun t c => takeClaim t c.1 c.2) { u with
          pd := some (sampleWord format (saturateFormat format value))
          rpt := rpt
          vce := ⟨moved.foldl (fun vs m => vs.set m.1 m.2) u.vce.voices, mixClipped⟩
          bus := { u.bus with cycle := none } }
      (8 ≤ r.offset →
        let clips : Prop := saturateFormat format (saturate24 r.total) ≠ r.total
        completes (saturate24 r.total) r.moved (u.vce.mixClipped || decide clips)
          (if clips ∧ u.vce.mixClipped = false then (raiseEvent u (clip none r.total)).rpt
            else u.rpt)) ∧
      (r.offset < 8 →
        (saturateFormat format r.total = r.total →
          completes r.total r.moved u.vce.mixClipped u.rpt) ∧
        ∀ v m, r.moved = [(v, m)] → saturateFormat format r.total ≠ r.total →
          completes r.total [(v, { m with clipped := true })] u.vce.mixClipped
            (if m.clipped then u.rpt else (raiseEvent u (clip (some v) r.total)).rpt)))) ∧
  (∀ (s : State) (v : Fin 4) (c : Claim) (r : TapRead), s.bus.cycle = some (.tap r) →
    (8 ≤ r.offset ∨ r.offset % 4 = v.val → handClaim s v c =
      { s with bus := { s.bus with cycle := some (.tap { r with claims := r.claims ++ [(v, c)] }) } }) ∧
    (¬ (8 ≤ r.offset ∨ r.offset % 4 = v.val) → handClaim s v c = takeClaim s v c)) ∧
  (∀ (s : State) (r : VoiceRecord) (p : Position), r.p = some p →
    let lag (x : Position) : Int := (s.cap.c - x.extractLsb' 16 32).toInt
    let inside (x : Position) : Prop := 2 ≤ lag x ∧ lag x ≤ (inputSize s : Int) - 64
    let centre : Position := (s.cap.c - s.setup.active.general.lagCenter.setWidth 32) ++ 0#16
    (r.xfade = none →
      (inside p → hardCheck s r = (r, [])) ∧
      (¬ inside p → hardCheck s r =
        ({ r with p := some centre, splicePending := false }, [⟨3, lag p⟩]))) ∧
    ∀ x, r.xfade = some x →
      let cut (q : Position) : VoiceRecord :=
        { r with p := some q, xfade := none, splicePending := false }
      (inside p → inside x.q → hardCheck s r = (r, [])) ∧
      (inside p → ¬ inside x.q → hardCheck s r = (cut p, [⟨2, lag x.q⟩])) ∧
      (¬ inside p → inside x.q → hardCheck s r = (cut x.q, [⟨1, lag p⟩])) ∧
      (¬ inside p → ¬ inside x.q → hardCheck s r = (cut centre, [⟨1, lag p⟩, ⟨3, lag x.q⟩]))) ∧
  ∀ (s : State) (period : Option Nat) (r : VoiceRecord) (p : Position), r.p = some p →
    let g := s.setup.active.general
    let xf := g.xf.toNat
    let step : Position := BitVec.ofNat 48 r.ratio
    let lag (x : Position) : Int := ((s.cap.c ++ 0#16) - x).toInt
    let low (x : Position) : Prop := lag x < 65536 * (g.lagLow.toNat : Int) ∧ 65536 < r.ratio
    let high (x : Position) : Prop := 65536 * (g.lagHigh.toNat : Int) < lag x ∧ r.ratio < 65536
    let jump : Nat := min g.tmax.toNat (max g.tmin.toNat (period.getD g.jump.toNat))
    let centre : Int := 65536 * (g.lagCenter.toNat : Int)
    let spliced (t : VoiceRecord) (q : Position) (t' : VoiceRecord) : Prop :=
      t' = { t with xfade := some ⟨q, 1, xf⟩, splicePending := false }
    let splicesLow (x : Position) (t t' : VoiceRecord) : Prop :=
      ∃ m : Nat, spliced t (x - BitVec.ofNat 48 (m * (65536 * jump))) t' ∧
        centre ≤ lag x + m * (65536 * jump) ∧ ∀ k < m, lag x + k * (65536 * jump) < centre
    let splicesHigh (x : Position) (t t' : VoiceRecord) : Prop :=
      ∃ m : Nat, spliced t (x + BitVec.ofNat 48 (m * (65536 * jump))) t' ∧
        lag x - m * (65536 * jump) ≤ centre ∧ ∀ k < m, centre < lag x - k * (65536 * jump)
    ∃ advanced faded, streamMoves s period r = softCheck s period (endsCrossfade r) faded ∧
      (r.xfade = none → advanced = { r with p := some (p + step) } ∧ endsCrossfade r = false) ∧
      (∀ x, r.xfade = some x →
        (x.k < x.length → endsCrossfade r = false ∧ advanced = { r with
          p := some (p + step), xfade := some { x with q := x.q + step, k := x.k + 1 } }) ∧
        (x.length ≤ x.k → endsCrossfade r = true ∧
          advanced = { r with p := some (x.q + step), xfade := none })) ∧
      (r.state = .entering → faded = { advanced with
        fade := min xf (r.fade + 1)
        state := if xf ≤ r.fade + 1 then .sounding else .entering }) ∧
      (r.state = .leaving → 2 ≤ r.fade → faded = { advanced with fade := r.fade - 1 }) ∧
      (r.state = .leaving → r.fade ≤ 1 → faded = { advanced with
          fade := 0, p := none, xfade := none, splicePending := false
          state := if r.enable then .parked else .silent } ∧
        streamMoves s period r = faded) ∧
      (r.state ≠ .entering → r.state ≠ .leaving → faded = advanced) ∧
      (0 < jump → faded.p ≠ none →
        (∀ x, faded.xfade = some x → streamMoves s period r = { faded with
          splicePending := faded.splicePending || decide (low x.q ∨ high x.q) }) ∧
        ∀ q, faded.p = some q → faded.xfade = none →
          (endsCrossfade r = true → r.splicePending = true →
            (lag q < centre → splicesLow q faded (streamMoves s period r)) ∧
            (centre < lag q → splicesHigh q faded (streamMoves s period r)) ∧
            (lag q = centre → streamMoves s period r = { faded with splicePending := false })) ∧
          (endsCrossfade r = false ∨ r.splicePending = false →
            (low q → splicesLow q faded (streamMoves s period r)) ∧
            (high q → splicesHigh q faded (streamMoves s period r)) ∧
            (¬ low q → ¬ high q → streamMoves s period r = faded)))

/-- The ratio of a shift within 2,400 cents is 2 to the power shift/1,200 times 65,536, rounded to the
nearest whole number with an exact half up (R70). -/
def Obligations.RatioRounded : Prop :=
  ∀ c : Int, -2400 ≤ c → c ≤ 2400 →
    (ratioOf c : ℝ) - 1 / 2 ≤ 65536 * (2 : ℝ) ^ ((c : ℝ) / 1200) ∧
    65536 * (2 : ℝ) ^ ((c : ℝ) / 1200) < (ratioOf c : ℝ) + 1 / 2

/-- A target update taken by a voice record: TARGET_CHANGED is set where the note differs, note and
shift are replaced, and the voice acts by its state (R67). -/
def Obligations.TargetUpdateTaken : Prop :=
  ∀ (s : State) (glide : Nat) (u : Target) (r : VoiceRecord),
    let given : VoiceRecord := { r with
      target := some u
      targetChanged := r.targetChanged || decide (r.target.map (·.note) ≠ some u.note) }
    let glided (x : VoiceRecord) : VoiceRecord :=
      if u.shift = x.current then x
      else
        let current : Int :=
          if (u.shift - x.current).natAbs ≤ glide then u.shift
          else if x.current < u.shift then x.current + glide else x.current - glide
        { x with current := current, ratio := ratioOf current }
    (r.state = .silent → claimOn s glide (.update u) r = given) ∧
    (r.state = .parked →
      (s.setup.active.general.lagCenter.toNat + 2 ≤ s.cap.fill →
        claimOn s glide (.update u) r = { given with
          state := .entering, fade := 0, xfade := none, splicePending := false,
          p := some ((s.cap.c - s.setup.active.general.lagCenter.setWidth 32) ++ 0#16),
          current := u.shift, ratio := ratioOf u.shift }) ∧
      (s.cap.fill < s.setup.active.general.lagCenter.toNat + 2 →
        claimOn s glide (.update u) r = given)) ∧
    (r.state = .entering ∨ r.state = .sounding →
      claimOn s glide (.update u) r = glided given) ∧
    (r.state = .leaving →
      (r.enable = true →
        claimOn s glide (.update u) r = glided { given with state := .entering }) ∧
      (r.enable = false → claimOn s glide (.update u) r = glided given))

/-! ### Reports (10) -/

/-- An event reaches the Report Unit: it joins the event queue exactly when the engine is RUNNING or
HALTED, the map holds a REPORT entry and the event mask has its kind; at a queue of 8 it is lost and
sets the lost flag; otherwise it leaves no trace (R172). -/
def Obligations.EventsReachTheQueue : Prop :=
  ∀ (s : State) (e : Event),
    let recorded : Prop := s.setup.engine ≠ .idle ∧
      (∃ n : Fin 7, Role.ofCode s.map.entries[n].role = some .report) ∧
      s.setup.active.general.eventMask.getLsbD (e.kind.number - 1) = true
    (recorded → s.rpt.queue.length < 8 →
      raiseEvent s e = { s with rpt := { s.rpt with queue := s.rpt.queue ++ [e] } }) ∧
    (recorded → 8 ≤ s.rpt.queue.length →
      raiseEvent s e = { s with rpt := { s.rpt with lost := true } }) ∧
    (¬ recorded → raiseEvent s e = s)

/-- REPORT_RECORD_START takes the oldest event and the lost flag into a record and requests its four words
at slot p, in the layout of section 11.5; while none may start it changes nothing (the model's choice,
notes/assumptions/7.md). None starts while a command that touches the ring is in progress: such a command
is ready as it is taken (the model's choice, notes/assumptions/8.md). RECORD_WORD leaves a word in memory,
and after the fourth the write of p + 1 modulo N is requested. PRODUCER_INDEX_WRITE leaves it in memory, p
takes the new value, and the record is produced with its kind and the hop counter (R174, R177); a next
record that is then ready starts before the grant, so that its words go ahead of the drains (R152;
DEDUCED, notes/assumptions/36.md). -/
def Obligations.RecordsAreWritten : Prop :=
  (∀ (s : State) (w : WindowEntry) (e : Event) (rest : List Event),
    reportEntry s = some w → s.setup.engine ≠ .idle → s.rpt.ringWritten = true →
    s.rpt.queue = e :: rest →
    (s.rpt.record = none → (∀ c, s.setup.command = some c → c.touchesRing = false) →
      (s.rpt.producer + w.records.toNat - s.rpt.consumer) % w.records.toNat + 1 <
        w.records.toNat →
      let word (k : Fin 4) (d : Word) : PartWrite :=
        ⟨.record k, w.base + BitVec.ofNat 20 (16 + 4 * s.rpt.producer + k.val), d⟩
      let started (t : State) : State := { t with
        rpt := { s.rpt with queue := rest, lost := false, record := some e.kind }
        bus := { s.bus with requests := s.bus.requests ++
          [word 0 (BitVec.ofBool s.rpt.lost ++ 0#7 ++ voiceField e.voice ++ e.detail ++
              BitVec.ofNat 8 e.kind.number),
            word 1 e.stamp, word 2 e.value, word 3 e.second] } }
      startReadyRecord s = started s ∧
        exec .reportRecordStart s = .next (grant (started { s with pd := none }))) ∧
    (s.rpt.record ≠ none ∨ (∃ c, s.setup.command = some c ∧ c.touchesRing = true) ∨
      w.records.toNat ≤
        (s.rpt.producer + w.records.toNat - s.rpt.consumer) % w.records.toNat + 1 →
      startReadyRecord s = s ∧ exec .reportRecordStart s = .next { s with pd := none })) ∧
  (∀ s : State,
    s.setup.engine = .idle ∨ reportEntry s = none ∨ s.rpt.ringWritten = false ∨ s.rpt.queue = [] →
    startReadyRecord s = s ∧ exec .reportRecordStart s = .next { s with pd := none }) ∧
  (∀ (s : State) (a : Addr) (d : Word) (k : Fin 4), Memory.wf s.mem = true →
    s.bus.port = some ⟨.partWrite ⟨.record k, a, d⟩, true⟩ → heldWriteReady s = false →
    ∃ t, exec .recordWord s = .next t ∧
      loadWord t a = d ∧ (∀ b : Addr, b ≠ a → loadWord t b = loadWord s b) ∧
      (k ≠ 3 → t = grant { s with pd := none, mem := t.mem, bus := { s.bus with port := none } }) ∧
      (k = 3 → ∀ w, reportEntry s = some w → t = grant { s with
        pd := none
        mem := t.mem
        bus := { s.bus with
          port := none
          requests := s.bus.requests ++ [⟨.producer, w.base,
            0#22 ++ BitVec.ofNat 10 ((s.rpt.producer + 1) % w.records.toNat)⟩] } })) ∧
  ∀ (s : State) (a : Addr) (d : Word) (w : WindowEntry) (k : EventKind),
    Memory.wf s.mem = true → reportEntry s = some w → s.rpt.record = some k →
    s.bus.port = some ⟨.partWrite ⟨.producer, a, d⟩, true⟩ → heldWriteReady s = false →
    ∃ t, exec .producerIndexWrite s = .next t ∧
      t = grant (startReadyRecord { s with
        pd := none
        mem := t.mem
        rpt := { s.rpt with
          producer := (s.rpt.producer + 1) % w.records.toNat,
          unconsumed := s.rpt.unconsumed ++ [⟨k, s.rpt.hopCounter⟩], record := none }
        bus := { s.bus with port := none } }) ∧
      loadWord t a = d ∧ ∀ b : Addr, b ≠ a → loadWord t b = loadWord s b

/-- CONSUMER_INDEX_WRITE at offset 1 of the REPORT window: a value below N that lies forward from c up to
p round the ring becomes c and is posted, and the records up to it are consumed; any other value is
dropped with REPORT_INDEX, and nothing else changes (R146, R175). The drop waits for no room: it is made at
once at a full queue too (DEDUCED from R149 and R175, notes/assumptions/17.md); a value to be taken is then
held (HeldWritesAreTakenLater). -/
def Obligations.ConsumerIndexWrites : Prop :=
  ∀ (s : State) (a : Addr) (v : Word) (w : WindowEntry), portFree s →
    s.setup.command = none → classify s a = some (.report, 1) → reportEntry s = some w →
    let size := w.records.toNat
    let ahead := (v.toNat + size - s.rpt.consumer) % size
    let unconsumed := (s.rpt.producer + size - s.rpt.consumer) % size
    (hasRoom s → v.toNat < size → ahead ≤ unconsumed →
      exec (.consumerIndexWrite a v) s = .next (grant { s with
        pd := none
        rpt := { s.rpt with consumer := v.toNat, unconsumed := s.rpt.unconsumed.drop ahead }
        bus := { s.bus with queue := s.bus.queue ++ [⟨a, v⟩] } })) ∧
    (size ≤ v.toNat ∨ unconsumed < ahead →
      exec (.consumerIndexWrite a v) s = .next (grant { s with
        pd := none
        rpt := (raiseEvent s ⟨.reportIndex, 0, none, v, BitVec.ofNat 32 s.rpt.producer,
          s.cap.count⟩).rpt }))

/-- The attention line is asserted exactly when a ring is in effect and its condition holds: the
unconsumed records number at least the trigger, or the timeout is not 0 and the oldest record's age
reaches it, or an unconsumed record's kind is in the urgent mask. It is negated in IDLE, without a
REPORT entry, and while a reset ring's words are not written (R178). The pin follows it while RESET is high,
and is negated while RESET is low (R179). -/
def Obligations.AttentionLine : Prop :=
  ∀ s : State,
    let g := s.setup.active.general
    (attention s = true ↔
      s.setup.engine ≠ .idle ∧ s.rpt.ringWritten = true ∧ ∃ w, reportEntry s = some w ∧
        (g.trigger.toNat ≤
            (s.rpt.producer + w.records.toNat - s.rpt.consumer) % w.records.toNat ∨
          (g.timeout.toNat ≠ 0 ∧ ∃ r, s.rpt.unconsumed.head? = some r ∧
            g.timeout.toNat ≤ (s.rpt.hopCounter - r.hop).toNat) ∨
          ∃ r ∈ s.rpt.unconsumed, g.urgentMask.getLsbD (r.kind.number - 1) = true)) ∧
    (s.setup.engine = .idle ∨ reportEntry s = none ∨ s.rpt.ringWritten = false →
      attention s = false) ∧
    (s.resetLow = true → attnPin s = false) ∧
    (s.resetLow = false → attnPin s = attention s)
end

