-- ==== Sys2Proof/Laws/Bits.lean ====
section
/-! SUPPORT. Bits of numbers in two's complement (R103), and the CRC register one character on (R121). -/

namespace Sys2Proof.Machine

/-- A number in two's complement has the same low bits at either width. -/
theorem getLsbD_ofInt_narrow (v : Int) {n m k : Nat} (hk : k < n) (h : n ≤ m) :
    (BitVec.ofInt n v).getLsbD k = (BitVec.ofInt m v).getLsbD k := by
  have narrowed : BitVec.ofInt n v = (BitVec.ofInt m v).setWidth n := by
    have divides : ((2 ^ n : Nat) : Int) ∣ ((2 ^ m : Nat) : Int) :=
      Int.natCast_dvd_natCast.mpr (Nat.pow_dvd_pow 2 h)
    have nonneg : 0 ≤ v % ((2 ^ m : Nat) : Int) := Int.emod_nonneg _ (by positivity)
    apply BitVec.eq_of_toNat_eq
    rw [BitVec.toNat_setWidth, BitVec.toNat_ofInt, BitVec.toNat_ofInt]
    apply Int.ofNat_inj.mp
    rw [Int.natCast_mod, Int.toNat_of_nonneg nonneg,
      Int.toNat_of_nonneg (Int.emod_nonneg _ (by positivity)), Int.emod_emod_of_dvd _ divides]
  rw [narrowed, BitVec.getLsbD_setWidth]
  simp [hk]

theorem crcOf_nil : crcOf [] = 0xFFFF := rfl

theorem crcOf_snoc (chars : List Byte) (c : Byte) :
    crcOf (chars ++ [c]) = crcChar (crcOf chars) c := by
  unfold crcOf
  rw [List.foldl_append]
  rfl

end Sys2Proof.Machine
end

