-- ==== Sys2Proof/Laws/State.lean ====
section
/-! SUPPORT. What every named update leaves alone: one lemma per field, so that no proof unfolds a record
update. Section 1 holds the updates that are one record, section 2 what they change. -/

namespace Sys2Proof.Machine

/-! ### 1. Fields an update keeps -/

@[simp] theorem beginStep_pending (s : State) : (beginStep s).pending = s.pending := rfl
@[simp] theorem beginStep_resetLow (s : State) : (beginStep s).resetLow = s.resetLow := rfl
@[simp] theorem beginStep_mem (s : State) : (beginStep s).mem = s.mem := rfl
@[simp] theorem beginStep_bus (s : State) : (beginStep s).bus = s.bus := rfl
@[simp] theorem beginStep_map (s : State) : (beginStep s).map = s.map := rfl
@[simp] theorem beginStep_setup (s : State) : (beginStep s).setup = s.setup := rfl
@[simp] theorem beginStep_cap (s : State) : (beginStep s).cap = s.cap := rfl
@[simp] theorem beginStep_trk (s : State) : (beginStep s).trk = s.trk := rfl
@[simp] theorem beginStep_pln (s : State) : (beginStep s).pln = s.pln := rfl
@[simp] theorem beginStep_vce (s : State) : (beginStep s).vce = s.vce := rfl
@[simp] theorem beginStep_crx (s : State) : (beginStep s).crx = s.crx := rfl
@[simp] theorem beginStep_csc (s : State) : (beginStep s).csc = s.csc := rfl
@[simp] theorem beginStep_rpt (s : State) : (beginStep s).rpt = s.rpt := rfl

@[simp] theorem postWrite_pending (s : State) (a : Addr) (d : Word) : (postWrite s a d).pending = s.pending := rfl
@[simp] theorem postWrite_resetLow (s : State) (a : Addr) (d : Word) : (postWrite s a d).resetLow = s.resetLow := rfl
@[simp] theorem postWrite_pd (s : State) (a : Addr) (d : Word) : (postWrite s a d).pd = s.pd := rfl
@[simp] theorem postWrite_mem (s : State) (a : Addr) (d : Word) : (postWrite s a d).mem = s.mem := rfl
@[simp] theorem postWrite_map (s : State) (a : Addr) (d : Word) : (postWrite s a d).map = s.map := rfl
@[simp] theorem postWrite_setup (s : State) (a : Addr) (d : Word) : (postWrite s a d).setup = s.setup := rfl
@[simp] theorem postWrite_cap (s : State) (a : Addr) (d : Word) : (postWrite s a d).cap = s.cap := rfl
@[simp] theorem postWrite_trk (s : State) (a : Addr) (d : Word) : (postWrite s a d).trk = s.trk := rfl
@[simp] theorem postWrite_pln (s : State) (a : Addr) (d : Word) : (postWrite s a d).pln = s.pln := rfl
@[simp] theorem postWrite_vce (s : State) (a : Addr) (d : Word) : (postWrite s a d).vce = s.vce := rfl
@[simp] theorem postWrite_crx (s : State) (a : Addr) (d : Word) : (postWrite s a d).crx = s.crx := rfl
@[simp] theorem postWrite_csc (s : State) (a : Addr) (d : Word) : (postWrite s a d).csc = s.csc := rfl
@[simp] theorem postWrite_rpt (s : State) (a : Addr) (d : Word) : (postWrite s a d).rpt = s.rpt := rfl

@[simp] theorem requestWrite_pending (s : State) (w : PartWrite) : (requestWrite s w).pending = s.pending := rfl
@[simp] theorem requestWrite_resetLow (s : State) (w : PartWrite) : (requestWrite s w).resetLow = s.resetLow := rfl
@[simp] theorem requestWrite_pd (s : State) (w : PartWrite) : (requestWrite s w).pd = s.pd := rfl
@[simp] theorem requestWrite_mem (s : State) (w : PartWrite) : (requestWrite s w).mem = s.mem := rfl
@[simp] theorem requestWrite_map (s : State) (w : PartWrite) : (requestWrite s w).map = s.map := rfl
@[simp] theorem requestWrite_setup (s : State) (w : PartWrite) : (requestWrite s w).setup = s.setup := rfl
@[simp] theorem requestWrite_cap (s : State) (w : PartWrite) : (requestWrite s w).cap = s.cap := rfl
@[simp] theorem requestWrite_trk (s : State) (w : PartWrite) : (requestWrite s w).trk = s.trk := rfl
@[simp] theorem requestWrite_pln (s : State) (w : PartWrite) : (requestWrite s w).pln = s.pln := rfl
@[simp] theorem requestWrite_vce (s : State) (w : PartWrite) : (requestWrite s w).vce = s.vce := rfl
@[simp] theorem requestWrite_crx (s : State) (w : PartWrite) : (requestWrite s w).crx = s.crx := rfl
@[simp] theorem requestWrite_csc (s : State) (w : PartWrite) : (requestWrite s w).csc = s.csc := rfl
@[simp] theorem requestWrite_rpt (s : State) (w : PartWrite) : (requestWrite s w).rpt = s.rpt := rfl

@[simp] theorem requestWrites_pending (s : State) (ws : List PartWrite) : (requestWrites s ws).pending = s.pending := rfl
@[simp] theorem requestWrites_resetLow (s : State) (ws : List PartWrite) : (requestWrites s ws).resetLow = s.resetLow := rfl
@[simp] theorem requestWrites_pd (s : State) (ws : List PartWrite) : (requestWrites s ws).pd = s.pd := rfl
@[simp] theorem requestWrites_mem (s : State) (ws : List PartWrite) : (requestWrites s ws).mem = s.mem := rfl
@[simp] theorem requestWrites_map (s : State) (ws : List PartWrite) : (requestWrites s ws).map = s.map := rfl
@[simp] theorem requestWrites_setup (s : State) (ws : List PartWrite) : (requestWrites s ws).setup = s.setup := rfl
@[simp] theorem requestWrites_cap (s : State) (ws : List PartWrite) : (requestWrites s ws).cap = s.cap := rfl
@[simp] theorem requestWrites_trk (s : State) (ws : List PartWrite) : (requestWrites s ws).trk = s.trk := rfl
@[simp] theorem requestWrites_pln (s : State) (ws : List PartWrite) : (requestWrites s ws).pln = s.pln := rfl
@[simp] theorem requestWrites_vce (s : State) (ws : List PartWrite) : (requestWrites s ws).vce = s.vce := rfl
@[simp] theorem requestWrites_crx (s : State) (ws : List PartWrite) : (requestWrites s ws).crx = s.crx := rfl
@[simp] theorem requestWrites_csc (s : State) (ws : List PartWrite) : (requestWrites s ws).csc = s.csc := rfl
@[simp] theorem requestWrites_rpt (s : State) (ws : List PartWrite) : (requestWrites s ws).rpt = s.rpt := rfl

@[simp] theorem freePort_pending (s : State) : (freePort s).pending = s.pending := rfl
@[simp] theorem freePort_resetLow (s : State) : (freePort s).resetLow = s.resetLow := rfl
@[simp] theorem freePort_pd (s : State) : (freePort s).pd = s.pd := rfl
@[simp] theorem freePort_mem (s : State) : (freePort s).mem = s.mem := rfl
@[simp] theorem freePort_map (s : State) : (freePort s).map = s.map := rfl
@[simp] theorem freePort_setup (s : State) : (freePort s).setup = s.setup := rfl
@[simp] theorem freePort_cap (s : State) : (freePort s).cap = s.cap := rfl
@[simp] theorem freePort_trk (s : State) : (freePort s).trk = s.trk := rfl
@[simp] theorem freePort_pln (s : State) : (freePort s).pln = s.pln := rfl
@[simp] theorem freePort_vce (s : State) : (freePort s).vce = s.vce := rfl
@[simp] theorem freePort_crx (s : State) : (freePort s).crx = s.crx := rfl
@[simp] theorem freePort_csc (s : State) : (freePort s).csc = s.csc := rfl
@[simp] theorem freePort_rpt (s : State) : (freePort s).rpt = s.rpt := rfl

@[simp] theorem storeWord_pending (s : State) (a : Addr) (d : Word) : (storeWord s a d).pending = s.pending := rfl
@[simp] theorem storeWord_resetLow (s : State) (a : Addr) (d : Word) : (storeWord s a d).resetLow = s.resetLow := rfl
@[simp] theorem storeWord_pd (s : State) (a : Addr) (d : Word) : (storeWord s a d).pd = s.pd := rfl
@[simp] theorem storeWord_bus (s : State) (a : Addr) (d : Word) : (storeWord s a d).bus = s.bus := rfl
@[simp] theorem storeWord_map (s : State) (a : Addr) (d : Word) : (storeWord s a d).map = s.map := rfl
@[simp] theorem storeWord_setup (s : State) (a : Addr) (d : Word) : (storeWord s a d).setup = s.setup := rfl
@[simp] theorem storeWord_cap (s : State) (a : Addr) (d : Word) : (storeWord s a d).cap = s.cap := rfl
@[simp] theorem storeWord_trk (s : State) (a : Addr) (d : Word) : (storeWord s a d).trk = s.trk := rfl
@[simp] theorem storeWord_pln (s : State) (a : Addr) (d : Word) : (storeWord s a d).pln = s.pln := rfl
@[simp] theorem storeWord_vce (s : State) (a : Addr) (d : Word) : (storeWord s a d).vce = s.vce := rfl
@[simp] theorem storeWord_crx (s : State) (a : Addr) (d : Word) : (storeWord s a d).crx = s.crx := rfl
@[simp] theorem storeWord_csc (s : State) (a : Addr) (d : Word) : (storeWord s a d).csc = s.csc := rfl
@[simp] theorem storeWord_rpt (s : State) (a : Addr) (d : Word) : (storeWord s a d).rpt = s.rpt := rfl

@[simp] theorem endCycle_pending (s : State) (data : Option Word) : (endCycle s data).pending = s.pending := rfl
@[simp] theorem endCycle_resetLow (s : State) (data : Option Word) : (endCycle s data).resetLow = s.resetLow := rfl
@[simp] theorem endCycle_mem (s : State) (data : Option Word) : (endCycle s data).mem = s.mem := rfl
@[simp] theorem endCycle_map (s : State) (data : Option Word) : (endCycle s data).map = s.map := rfl
@[simp] theorem endCycle_setup (s : State) (data : Option Word) : (endCycle s data).setup = s.setup := rfl
@[simp] theorem endCycle_cap (s : State) (data : Option Word) : (endCycle s data).cap = s.cap := rfl
@[simp] theorem endCycle_trk (s : State) (data : Option Word) : (endCycle s data).trk = s.trk := rfl
@[simp] theorem endCycle_pln (s : State) (data : Option Word) : (endCycle s data).pln = s.pln := rfl
@[simp] theorem endCycle_vce (s : State) (data : Option Word) : (endCycle s data).vce = s.vce := rfl
@[simp] theorem endCycle_crx (s : State) (data : Option Word) : (endCycle s data).crx = s.crx := rfl
@[simp] theorem endCycle_csc (s : State) (data : Option Word) : (endCycle s data).csc = s.csc := rfl
@[simp] theorem endCycle_rpt (s : State) (data : Option Word) : (endCycle s data).rpt = s.rpt := rfl

@[simp] theorem holdCycle_pending (s : State) (c : Cycle) : (holdCycle s c).pending = s.pending := rfl
@[simp] theorem holdCycle_resetLow (s : State) (c : Cycle) : (holdCycle s c).resetLow = s.resetLow := rfl
@[simp] theorem holdCycle_pd (s : State) (c : Cycle) : (holdCycle s c).pd = s.pd := rfl
@[simp] theorem holdCycle_mem (s : State) (c : Cycle) : (holdCycle s c).mem = s.mem := rfl
@[simp] theorem holdCycle_map (s : State) (c : Cycle) : (holdCycle s c).map = s.map := rfl
@[simp] theorem holdCycle_setup (s : State) (c : Cycle) : (holdCycle s c).setup = s.setup := rfl
@[simp] theorem holdCycle_cap (s : State) (c : Cycle) : (holdCycle s c).cap = s.cap := rfl
@[simp] theorem holdCycle_trk (s : State) (c : Cycle) : (holdCycle s c).trk = s.trk := rfl
@[simp] theorem holdCycle_pln (s : State) (c : Cycle) : (holdCycle s c).pln = s.pln := rfl
@[simp] theorem holdCycle_vce (s : State) (c : Cycle) : (holdCycle s c).vce = s.vce := rfl
@[simp] theorem holdCycle_crx (s : State) (c : Cycle) : (holdCycle s c).crx = s.crx := rfl
@[simp] theorem holdCycle_csc (s : State) (c : Cycle) : (holdCycle s c).csc = s.csc := rfl
@[simp] theorem holdCycle_rpt (s : State) (c : Cycle) : (holdCycle s c).rpt = s.rpt := rfl

@[simp] theorem releaseCycle_pending (s : State) : (releaseCycle s).pending = s.pending := rfl
@[simp] theorem releaseCycle_resetLow (s : State) : (releaseCycle s).resetLow = s.resetLow := rfl
@[simp] theorem releaseCycle_pd (s : State) : (releaseCycle s).pd = s.pd := rfl
@[simp] theorem releaseCycle_mem (s : State) : (releaseCycle s).mem = s.mem := rfl
@[simp] theorem releaseCycle_map (s : State) : (releaseCycle s).map = s.map := rfl
@[simp] theorem releaseCycle_setup (s : State) : (releaseCycle s).setup = s.setup := rfl
@[simp] theorem releaseCycle_cap (s : State) : (releaseCycle s).cap = s.cap := rfl
@[simp] theorem releaseCycle_trk (s : State) : (releaseCycle s).trk = s.trk := rfl
@[simp] theorem releaseCycle_pln (s : State) : (releaseCycle s).pln = s.pln := rfl
@[simp] theorem releaseCycle_vce (s : State) : (releaseCycle s).vce = s.vce := rfl
@[simp] theorem releaseCycle_crx (s : State) : (releaseCycle s).crx = s.crx := rfl
@[simp] theorem releaseCycle_csc (s : State) : (releaseCycle s).csc = s.csc := rfl
@[simp] theorem releaseCycle_rpt (s : State) : (releaseCycle s).rpt = s.rpt := rfl

@[simp] theorem takeSetupWord_pending (s : State) (n : Nat) (d : Word) : (takeSetupWord s n d).pending = s.pending := rfl
@[simp] theorem takeSetupWord_resetLow (s : State) (n : Nat) (d : Word) : (takeSetupWord s n d).resetLow = s.resetLow := rfl
@[simp] theorem takeSetupWord_pd (s : State) (n : Nat) (d : Word) : (takeSetupWord s n d).pd = s.pd := rfl
@[simp] theorem takeSetupWord_mem (s : State) (n : Nat) (d : Word) : (takeSetupWord s n d).mem = s.mem := rfl
@[simp] theorem takeSetupWord_bus (s : State) (n : Nat) (d : Word) : (takeSetupWord s n d).bus = s.bus := rfl
@[simp] theorem takeSetupWord_map (s : State) (n : Nat) (d : Word) : (takeSetupWord s n d).map = s.map := rfl
@[simp] theorem takeSetupWord_cap (s : State) (n : Nat) (d : Word) : (takeSetupWord s n d).cap = s.cap := rfl
@[simp] theorem takeSetupWord_trk (s : State) (n : Nat) (d : Word) : (takeSetupWord s n d).trk = s.trk := rfl
@[simp] theorem takeSetupWord_pln (s : State) (n : Nat) (d : Word) : (takeSetupWord s n d).pln = s.pln := rfl
@[simp] theorem takeSetupWord_vce (s : State) (n : Nat) (d : Word) : (takeSetupWord s n d).vce = s.vce := rfl
@[simp] theorem takeSetupWord_crx (s : State) (n : Nat) (d : Word) : (takeSetupWord s n d).crx = s.crx := rfl
@[simp] theorem takeSetupWord_csc (s : State) (n : Nat) (d : Word) : (takeSetupWord s n d).csc = s.csc := rfl
@[simp] theorem takeSetupWord_rpt (s : State) (n : Nat) (d : Word) : (takeSetupWord s n d).rpt = s.rpt := rfl

@[simp] theorem setVoice_pending (s : State) (v : Fin 4) (r : VoiceRecord) : (setVoice s v r).pending = s.pending := rfl
@[simp] theorem setVoice_resetLow (s : State) (v : Fin 4) (r : VoiceRecord) : (setVoice s v r).resetLow = s.resetLow := rfl
@[simp] theorem setVoice_pd (s : State) (v : Fin 4) (r : VoiceRecord) : (setVoice s v r).pd = s.pd := rfl
@[simp] theorem setVoice_mem (s : State) (v : Fin 4) (r : VoiceRecord) : (setVoice s v r).mem = s.mem := rfl
@[simp] theorem setVoice_bus (s : State) (v : Fin 4) (r : VoiceRecord) : (setVoice s v r).bus = s.bus := rfl
@[simp] theorem setVoice_map (s : State) (v : Fin 4) (r : VoiceRecord) : (setVoice s v r).map = s.map := rfl
@[simp] theorem setVoice_setup (s : State) (v : Fin 4) (r : VoiceRecord) : (setVoice s v r).setup = s.setup := rfl
@[simp] theorem setVoice_cap (s : State) (v : Fin 4) (r : VoiceRecord) : (setVoice s v r).cap = s.cap := rfl
@[simp] theorem setVoice_trk (s : State) (v : Fin 4) (r : VoiceRecord) : (setVoice s v r).trk = s.trk := rfl
@[simp] theorem setVoice_pln (s : State) (v : Fin 4) (r : VoiceRecord) : (setVoice s v r).pln = s.pln := rfl
@[simp] theorem setVoice_crx (s : State) (v : Fin 4) (r : VoiceRecord) : (setVoice s v r).crx = s.crx := rfl
@[simp] theorem setVoice_csc (s : State) (v : Fin 4) (r : VoiceRecord) : (setVoice s v r).csc = s.csc := rfl
@[simp] theorem setVoice_rpt (s : State) (v : Fin 4) (r : VoiceRecord) : (setVoice s v r).rpt = s.rpt := rfl

@[simp] theorem takeClaim_pending (s : State) (v : Fin 4) (c : Claim) : (takeClaim s v c).pending = s.pending := rfl
@[simp] theorem takeClaim_resetLow (s : State) (v : Fin 4) (c : Claim) : (takeClaim s v c).resetLow = s.resetLow := rfl
@[simp] theorem takeClaim_pd (s : State) (v : Fin 4) (c : Claim) : (takeClaim s v c).pd = s.pd := rfl
@[simp] theorem takeClaim_mem (s : State) (v : Fin 4) (c : Claim) : (takeClaim s v c).mem = s.mem := rfl
@[simp] theorem takeClaim_bus (s : State) (v : Fin 4) (c : Claim) : (takeClaim s v c).bus = s.bus := rfl
@[simp] theorem takeClaim_map (s : State) (v : Fin 4) (c : Claim) : (takeClaim s v c).map = s.map := rfl
@[simp] theorem takeClaim_setup (s : State) (v : Fin 4) (c : Claim) : (takeClaim s v c).setup = s.setup := rfl
@[simp] theorem takeClaim_cap (s : State) (v : Fin 4) (c : Claim) : (takeClaim s v c).cap = s.cap := rfl
@[simp] theorem takeClaim_trk (s : State) (v : Fin 4) (c : Claim) : (takeClaim s v c).trk = s.trk := rfl
@[simp] theorem takeClaim_pln (s : State) (v : Fin 4) (c : Claim) : (takeClaim s v c).pln = s.pln := rfl
@[simp] theorem takeClaim_crx (s : State) (v : Fin 4) (c : Claim) : (takeClaim s v c).crx = s.crx := rfl
@[simp] theorem takeClaim_csc (s : State) (v : Fin 4) (c : Claim) : (takeClaim s v c).csc = s.csc := rfl
@[simp] theorem takeClaim_rpt (s : State) (v : Fin 4) (c : Claim) : (takeClaim s v c).rpt = s.rpt := rfl

@[simp] theorem clearVoiceFlags_pending (s : State) (v : Fin 4) : (clearVoiceFlags s v).pending = s.pending := rfl
@[simp] theorem clearVoiceFlags_resetLow (s : State) (v : Fin 4) : (clearVoiceFlags s v).resetLow = s.resetLow := rfl
@[simp] theorem clearVoiceFlags_pd (s : State) (v : Fin 4) : (clearVoiceFlags s v).pd = s.pd := rfl
@[simp] theorem clearVoiceFlags_mem (s : State) (v : Fin 4) : (clearVoiceFlags s v).mem = s.mem := rfl
@[simp] theorem clearVoiceFlags_bus (s : State) (v : Fin 4) : (clearVoiceFlags s v).bus = s.bus := rfl
@[simp] theorem clearVoiceFlags_map (s : State) (v : Fin 4) : (clearVoiceFlags s v).map = s.map := rfl
@[simp] theorem clearVoiceFlags_setup (s : State) (v : Fin 4) : (clearVoiceFlags s v).setup = s.setup := rfl
@[simp] theorem clearVoiceFlags_cap (s : State) (v : Fin 4) : (clearVoiceFlags s v).cap = s.cap := rfl
@[simp] theorem clearVoiceFlags_trk (s : State) (v : Fin 4) : (clearVoiceFlags s v).trk = s.trk := rfl
@[simp] theorem clearVoiceFlags_pln (s : State) (v : Fin 4) : (clearVoiceFlags s v).pln = s.pln := rfl
@[simp] theorem clearVoiceFlags_crx (s : State) (v : Fin 4) : (clearVoiceFlags s v).crx = s.crx := rfl
@[simp] theorem clearVoiceFlags_csc (s : State) (v : Fin 4) : (clearVoiceFlags s v).csc = s.csc := rfl
@[simp] theorem clearVoiceFlags_rpt (s : State) (v : Fin 4) : (clearVoiceFlags s v).rpt = s.rpt := rfl

@[simp] theorem clearMixFlag_pending (s : State) : (clearMixFlag s).pending = s.pending := rfl
@[simp] theorem clearMixFlag_resetLow (s : State) : (clearMixFlag s).resetLow = s.resetLow := rfl
@[simp] theorem clearMixFlag_pd (s : State) : (clearMixFlag s).pd = s.pd := rfl
@[simp] theorem clearMixFlag_mem (s : State) : (clearMixFlag s).mem = s.mem := rfl
@[simp] theorem clearMixFlag_bus (s : State) : (clearMixFlag s).bus = s.bus := rfl
@[simp] theorem clearMixFlag_map (s : State) : (clearMixFlag s).map = s.map := rfl
@[simp] theorem clearMixFlag_setup (s : State) : (clearMixFlag s).setup = s.setup := rfl
@[simp] theorem clearMixFlag_cap (s : State) : (clearMixFlag s).cap = s.cap := rfl
@[simp] theorem clearMixFlag_trk (s : State) : (clearMixFlag s).trk = s.trk := rfl
@[simp] theorem clearMixFlag_pln (s : State) : (clearMixFlag s).pln = s.pln := rfl
@[simp] theorem clearMixFlag_crx (s : State) : (clearMixFlag s).crx = s.crx := rfl
@[simp] theorem clearMixFlag_csc (s : State) : (clearMixFlag s).csc = s.csc := rfl
@[simp] theorem clearMixFlag_rpt (s : State) : (clearMixFlag s).rpt = s.rpt := rfl

@[simp] theorem clearTrackerFlags_pending (s : State) : (clearTrackerFlags s).pending = s.pending := rfl
@[simp] theorem clearTrackerFlags_resetLow (s : State) : (clearTrackerFlags s).resetLow = s.resetLow := rfl
@[simp] theorem clearTrackerFlags_pd (s : State) : (clearTrackerFlags s).pd = s.pd := rfl
@[simp] theorem clearTrackerFlags_mem (s : State) : (clearTrackerFlags s).mem = s.mem := rfl
@[simp] theorem clearTrackerFlags_bus (s : State) : (clearTrackerFlags s).bus = s.bus := rfl
@[simp] theorem clearTrackerFlags_map (s : State) : (clearTrackerFlags s).map = s.map := rfl
@[simp] theorem clearTrackerFlags_setup (s : State) : (clearTrackerFlags s).setup = s.setup := rfl
@[simp] theorem clearTrackerFlags_cap (s : State) : (clearTrackerFlags s).cap = s.cap := rfl
@[simp] theorem clearTrackerFlags_pln (s : State) : (clearTrackerFlags s).pln = s.pln := rfl
@[simp] theorem clearTrackerFlags_vce (s : State) : (clearTrackerFlags s).vce = s.vce := rfl
@[simp] theorem clearTrackerFlags_crx (s : State) : (clearTrackerFlags s).crx = s.crx := rfl
@[simp] theorem clearTrackerFlags_csc (s : State) : (clearTrackerFlags s).csc = s.csc := rfl
@[simp] theorem clearTrackerFlags_rpt (s : State) : (clearTrackerFlags s).rpt = s.rpt := rfl

@[simp] theorem clearTracker_pending (s : State) : (clearTracker s).pending = s.pending := rfl
@[simp] theorem clearTracker_resetLow (s : State) : (clearTracker s).resetLow = s.resetLow := rfl
@[simp] theorem clearTracker_pd (s : State) : (clearTracker s).pd = s.pd := rfl
@[simp] theorem clearTracker_mem (s : State) : (clearTracker s).mem = s.mem := rfl
@[simp] theorem clearTracker_bus (s : State) : (clearTracker s).bus = s.bus := rfl
@[simp] theorem clearTracker_map (s : State) : (clearTracker s).map = s.map := rfl
@[simp] theorem clearTracker_setup (s : State) : (clearTracker s).setup = s.setup := rfl
@[simp] theorem clearTracker_cap (s : State) : (clearTracker s).cap = s.cap := rfl
@[simp] theorem clearTracker_pln (s : State) : (clearTracker s).pln = s.pln := rfl
@[simp] theorem clearTracker_vce (s : State) : (clearTracker s).vce = s.vce := rfl
@[simp] theorem clearTracker_crx (s : State) : (clearTracker s).crx = s.crx := rfl
@[simp] theorem clearTracker_csc (s : State) : (clearTracker s).csc = s.csc := rfl
@[simp] theorem clearTracker_rpt (s : State) : (clearTracker s).rpt = s.rpt := rfl

@[simp] theorem endAnalysis_pending (s : State) : (endAnalysis s).pending = s.pending := rfl
@[simp] theorem endAnalysis_resetLow (s : State) : (endAnalysis s).resetLow = s.resetLow := rfl
@[simp] theorem endAnalysis_pd (s : State) : (endAnalysis s).pd = s.pd := rfl
@[simp] theorem endAnalysis_mem (s : State) : (endAnalysis s).mem = s.mem := rfl
@[simp] theorem endAnalysis_bus (s : State) : (endAnalysis s).bus = s.bus := rfl
@[simp] theorem endAnalysis_map (s : State) : (endAnalysis s).map = s.map := rfl
@[simp] theorem endAnalysis_setup (s : State) : (endAnalysis s).setup = s.setup := rfl
@[simp] theorem endAnalysis_cap (s : State) : (endAnalysis s).cap = s.cap := rfl
@[simp] theorem endAnalysis_pln (s : State) : (endAnalysis s).pln = s.pln := rfl
@[simp] theorem endAnalysis_vce (s : State) : (endAnalysis s).vce = s.vce := rfl
@[simp] theorem endAnalysis_crx (s : State) : (endAnalysis s).crx = s.crx := rfl
@[simp] theorem endAnalysis_csc (s : State) : (endAnalysis s).csc = s.csc := rfl
@[simp] theorem endAnalysis_rpt (s : State) : (endAnalysis s).rpt = s.rpt := rfl

@[simp] theorem setPlan_pending (s : State) (v : Fin 4) (p : VoicePlan) : (setPlan s v p).pending = s.pending := rfl
@[simp] theorem setPlan_resetLow (s : State) (v : Fin 4) (p : VoicePlan) : (setPlan s v p).resetLow = s.resetLow := rfl
@[simp] theorem setPlan_pd (s : State) (v : Fin 4) (p : VoicePlan) : (setPlan s v p).pd = s.pd := rfl
@[simp] theorem setPlan_mem (s : State) (v : Fin 4) (p : VoicePlan) : (setPlan s v p).mem = s.mem := rfl
@[simp] theorem setPlan_bus (s : State) (v : Fin 4) (p : VoicePlan) : (setPlan s v p).bus = s.bus := rfl
@[simp] theorem setPlan_map (s : State) (v : Fin 4) (p : VoicePlan) : (setPlan s v p).map = s.map := rfl
@[simp] theorem setPlan_setup (s : State) (v : Fin 4) (p : VoicePlan) : (setPlan s v p).setup = s.setup := rfl
@[simp] theorem setPlan_cap (s : State) (v : Fin 4) (p : VoicePlan) : (setPlan s v p).cap = s.cap := rfl
@[simp] theorem setPlan_trk (s : State) (v : Fin 4) (p : VoicePlan) : (setPlan s v p).trk = s.trk := rfl
@[simp] theorem setPlan_vce (s : State) (v : Fin 4) (p : VoicePlan) : (setPlan s v p).vce = s.vce := rfl
@[simp] theorem setPlan_crx (s : State) (v : Fin 4) (p : VoicePlan) : (setPlan s v p).crx = s.crx := rfl
@[simp] theorem setPlan_csc (s : State) (v : Fin 4) (p : VoicePlan) : (setPlan s v p).csc = s.csc := rfl
@[simp] theorem setPlan_rpt (s : State) (v : Fin 4) (p : VoicePlan) : (setPlan s v p).rpt = s.rpt := rfl

@[simp] theorem executeHold_pending (s : State) : (executeHold s).pending = s.pending := rfl
@[simp] theorem executeHold_resetLow (s : State) : (executeHold s).resetLow = s.resetLow := rfl
@[simp] theorem executeHold_pd (s : State) : (executeHold s).pd = s.pd := rfl
@[simp] theorem executeHold_mem (s : State) : (executeHold s).mem = s.mem := rfl
@[simp] theorem executeHold_bus (s : State) : (executeHold s).bus = s.bus := rfl
@[simp] theorem executeHold_map (s : State) : (executeHold s).map = s.map := rfl
@[simp] theorem executeHold_setup (s : State) : (executeHold s).setup = s.setup := rfl
@[simp] theorem executeHold_cap (s : State) : (executeHold s).cap = s.cap := rfl
@[simp] theorem executeHold_trk (s : State) : (executeHold s).trk = s.trk := rfl
@[simp] theorem executeHold_vce (s : State) : (executeHold s).vce = s.vce := rfl
@[simp] theorem executeHold_crx (s : State) : (executeHold s).crx = s.crx := rfl
@[simp] theorem executeHold_csc (s : State) : (executeHold s).csc = s.csc := rfl
@[simp] theorem executeHold_rpt (s : State) : (executeHold s).rpt = s.rpt := rfl

@[simp] theorem setAtList_pending (s : State) (l : List AtEntry) : (setAtList s l).pending = s.pending := rfl
@[simp] theorem setAtList_resetLow (s : State) (l : List AtEntry) : (setAtList s l).resetLow = s.resetLow := rfl
@[simp] theorem setAtList_pd (s : State) (l : List AtEntry) : (setAtList s l).pd = s.pd := rfl
@[simp] theorem setAtList_mem (s : State) (l : List AtEntry) : (setAtList s l).mem = s.mem := rfl
@[simp] theorem setAtList_bus (s : State) (l : List AtEntry) : (setAtList s l).bus = s.bus := rfl
@[simp] theorem setAtList_map (s : State) (l : List AtEntry) : (setAtList s l).map = s.map := rfl
@[simp] theorem setAtList_setup (s : State) (l : List AtEntry) : (setAtList s l).setup = s.setup := rfl
@[simp] theorem setAtList_cap (s : State) (l : List AtEntry) : (setAtList s l).cap = s.cap := rfl
@[simp] theorem setAtList_trk (s : State) (l : List AtEntry) : (setAtList s l).trk = s.trk := rfl
@[simp] theorem setAtList_pln (s : State) (l : List AtEntry) : (setAtList s l).pln = s.pln := rfl
@[simp] theorem setAtList_vce (s : State) (l : List AtEntry) : (setAtList s l).vce = s.vce := rfl
@[simp] theorem setAtList_crx (s : State) (l : List AtEntry) : (setAtList s l).crx = s.crx := rfl
@[simp] theorem setAtList_rpt (s : State) (l : List AtEntry) : (setAtList s l).rpt = s.rpt := rfl

@[simp] theorem emptyLists_pending (s : State) : (emptyLists s).pending = s.pending := rfl
@[simp] theorem emptyLists_resetLow (s : State) : (emptyLists s).resetLow = s.resetLow := rfl
@[simp] theorem emptyLists_pd (s : State) : (emptyLists s).pd = s.pd := rfl
@[simp] theorem emptyLists_mem (s : State) : (emptyLists s).mem = s.mem := rfl
@[simp] theorem emptyLists_bus (s : State) : (emptyLists s).bus = s.bus := rfl
@[simp] theorem emptyLists_map (s : State) : (emptyLists s).map = s.map := rfl
@[simp] theorem emptyLists_setup (s : State) : (emptyLists s).setup = s.setup := rfl
@[simp] theorem emptyLists_cap (s : State) : (emptyLists s).cap = s.cap := rfl
@[simp] theorem emptyLists_trk (s : State) : (emptyLists s).trk = s.trk := rfl
@[simp] theorem emptyLists_pln (s : State) : (emptyLists s).pln = s.pln := rfl
@[simp] theorem emptyLists_vce (s : State) : (emptyLists s).vce = s.vce := rfl
@[simp] theorem emptyLists_crx (s : State) : (emptyLists s).crx = s.crx := rfl
@[simp] theorem emptyLists_rpt (s : State) : (emptyLists s).rpt = s.rpt := rfl

@[simp] theorem fallAsleep_pending (s : State) : (fallAsleep s).pending = s.pending := rfl
@[simp] theorem fallAsleep_resetLow (s : State) : (fallAsleep s).resetLow = s.resetLow := rfl
@[simp] theorem fallAsleep_pd (s : State) : (fallAsleep s).pd = s.pd := rfl
@[simp] theorem fallAsleep_mem (s : State) : (fallAsleep s).mem = s.mem := rfl
@[simp] theorem fallAsleep_bus (s : State) : (fallAsleep s).bus = s.bus := rfl
@[simp] theorem fallAsleep_map (s : State) : (fallAsleep s).map = s.map := rfl
@[simp] theorem fallAsleep_setup (s : State) : (fallAsleep s).setup = s.setup := rfl
@[simp] theorem fallAsleep_cap (s : State) : (fallAsleep s).cap = s.cap := rfl
@[simp] theorem fallAsleep_trk (s : State) : (fallAsleep s).trk = s.trk := rfl
@[simp] theorem fallAsleep_pln (s : State) : (fallAsleep s).pln = s.pln := rfl
@[simp] theorem fallAsleep_vce (s : State) : (fallAsleep s).vce = s.vce := rfl
@[simp] theorem fallAsleep_csc (s : State) : (fallAsleep s).csc = s.csc := rfl
@[simp] theorem fallAsleep_rpt (s : State) : (fallAsleep s).rpt = s.rpt := rfl

@[simp] theorem lineRises_pending (s : State) : (lineRises s).pending = s.pending := rfl
@[simp] theorem lineRises_resetLow (s : State) : (lineRises s).resetLow = s.resetLow := rfl
@[simp] theorem lineRises_pd (s : State) : (lineRises s).pd = s.pd := rfl
@[simp] theorem lineRises_mem (s : State) : (lineRises s).mem = s.mem := rfl
@[simp] theorem lineRises_bus (s : State) : (lineRises s).bus = s.bus := rfl
@[simp] theorem lineRises_map (s : State) : (lineRises s).map = s.map := rfl
@[simp] theorem lineRises_setup (s : State) : (lineRises s).setup = s.setup := rfl
@[simp] theorem lineRises_cap (s : State) : (lineRises s).cap = s.cap := rfl
@[simp] theorem lineRises_trk (s : State) : (lineRises s).trk = s.trk := rfl
@[simp] theorem lineRises_pln (s : State) : (lineRises s).pln = s.pln := rfl
@[simp] theorem lineRises_vce (s : State) : (lineRises s).vce = s.vce := rfl
@[simp] theorem lineRises_csc (s : State) : (lineRises s).csc = s.csc := rfl
@[simp] theorem lineRises_rpt (s : State) : (lineRises s).rpt = s.rpt := rfl

@[simp] theorem fallWasNoise_pending (s : State) : (fallWasNoise s).pending = s.pending := rfl
@[simp] theorem fallWasNoise_resetLow (s : State) : (fallWasNoise s).resetLow = s.resetLow := rfl
@[simp] theorem fallWasNoise_pd (s : State) : (fallWasNoise s).pd = s.pd := rfl
@[simp] theorem fallWasNoise_mem (s : State) : (fallWasNoise s).mem = s.mem := rfl
@[simp] theorem fallWasNoise_bus (s : State) : (fallWasNoise s).bus = s.bus := rfl
@[simp] theorem fallWasNoise_map (s : State) : (fallWasNoise s).map = s.map := rfl
@[simp] theorem fallWasNoise_setup (s : State) : (fallWasNoise s).setup = s.setup := rfl
@[simp] theorem fallWasNoise_cap (s : State) : (fallWasNoise s).cap = s.cap := rfl
@[simp] theorem fallWasNoise_trk (s : State) : (fallWasNoise s).trk = s.trk := rfl
@[simp] theorem fallWasNoise_pln (s : State) : (fallWasNoise s).pln = s.pln := rfl
@[simp] theorem fallWasNoise_vce (s : State) : (fallWasNoise s).vce = s.vce := rfl
@[simp] theorem fallWasNoise_csc (s : State) : (fallWasNoise s).csc = s.csc := rfl
@[simp] theorem fallWasNoise_rpt (s : State) : (fallWasNoise s).rpt = s.rpt := rfl

@[simp] theorem seeFall_pending (s : State) : (seeFall s).pending = s.pending := by unfold seeFall; split <;> rfl
@[simp] theorem seeFall_resetLow (s : State) : (seeFall s).resetLow = s.resetLow := by unfold seeFall; split <;> rfl
@[simp] theorem seeFall_pd (s : State) : (seeFall s).pd = s.pd := by unfold seeFall; split <;> rfl
@[simp] theorem seeFall_mem (s : State) : (seeFall s).mem = s.mem := by unfold seeFall; split <;> rfl
@[simp] theorem seeFall_bus (s : State) : (seeFall s).bus = s.bus := by unfold seeFall; split <;> rfl
@[simp] theorem seeFall_map (s : State) : (seeFall s).map = s.map := by unfold seeFall; split <;> rfl
@[simp] theorem seeFall_setup (s : State) : (seeFall s).setup = s.setup := by unfold seeFall; split <;> rfl
@[simp] theorem seeFall_cap (s : State) : (seeFall s).cap = s.cap := by unfold seeFall; split <;> rfl
@[simp] theorem seeFall_trk (s : State) : (seeFall s).trk = s.trk := by unfold seeFall; split <;> rfl
@[simp] theorem seeFall_pln (s : State) : (seeFall s).pln = s.pln := by unfold seeFall; split <;> rfl
@[simp] theorem seeFall_vce (s : State) : (seeFall s).vce = s.vce := by unfold seeFall; split <;> rfl
@[simp] theorem seeFall_csc (s : State) : (seeFall s).csc = s.csc := by unfold seeFall; split <;> rfl
@[simp] theorem seeFall_rpt (s : State) : (seeFall s).rpt = s.rpt := by unfold seeFall; split <;> rfl

@[simp] theorem takeConsumer_pending (s : State) (v : Word) : (takeConsumer s v).pending = s.pending := rfl
@[simp] theorem takeConsumer_resetLow (s : State) (v : Word) : (takeConsumer s v).resetLow = s.resetLow := rfl
@[simp] theorem takeConsumer_pd (s : State) (v : Word) : (takeConsumer s v).pd = s.pd := rfl
@[simp] theorem takeConsumer_mem (s : State) (v : Word) : (takeConsumer s v).mem = s.mem := rfl
@[simp] theorem takeConsumer_bus (s : State) (v : Word) : (takeConsumer s v).bus = s.bus := rfl
@[simp] theorem takeConsumer_map (s : State) (v : Word) : (takeConsumer s v).map = s.map := rfl
@[simp] theorem takeConsumer_setup (s : State) (v : Word) : (takeConsumer s v).setup = s.setup := rfl
@[simp] theorem takeConsumer_cap (s : State) (v : Word) : (takeConsumer s v).cap = s.cap := rfl
@[simp] theorem takeConsumer_trk (s : State) (v : Word) : (takeConsumer s v).trk = s.trk := rfl
@[simp] theorem takeConsumer_pln (s : State) (v : Word) : (takeConsumer s v).pln = s.pln := rfl
@[simp] theorem takeConsumer_vce (s : State) (v : Word) : (takeConsumer s v).vce = s.vce := rfl
@[simp] theorem takeConsumer_crx (s : State) (v : Word) : (takeConsumer s v).crx = s.crx := rfl
@[simp] theorem takeConsumer_csc (s : State) (v : Word) : (takeConsumer s v).csc = s.csc := rfl

@[simp] theorem producerDone_pending (s : State) : (producerDone s).pending = s.pending := rfl
@[simp] theorem producerDone_resetLow (s : State) : (producerDone s).resetLow = s.resetLow := rfl
@[simp] theorem producerDone_pd (s : State) : (producerDone s).pd = s.pd := rfl
@[simp] theorem producerDone_mem (s : State) : (producerDone s).mem = s.mem := rfl
@[simp] theorem producerDone_bus (s : State) : (producerDone s).bus = s.bus := rfl
@[simp] theorem producerDone_map (s : State) : (producerDone s).map = s.map := rfl
@[simp] theorem producerDone_setup (s : State) : (producerDone s).setup = s.setup := rfl
@[simp] theorem producerDone_cap (s : State) : (producerDone s).cap = s.cap := rfl
@[simp] theorem producerDone_trk (s : State) : (producerDone s).trk = s.trk := rfl
@[simp] theorem producerDone_pln (s : State) : (producerDone s).pln = s.pln := rfl
@[simp] theorem producerDone_vce (s : State) : (producerDone s).vce = s.vce := rfl
@[simp] theorem producerDone_crx (s : State) : (producerDone s).crx = s.crx := rfl
@[simp] theorem producerDone_csc (s : State) : (producerDone s).csc = s.csc := rfl

@[simp] theorem resetRing_pending (s : State) : (resetRing s).pending = s.pending := rfl
@[simp] theorem resetRing_resetLow (s : State) : (resetRing s).resetLow = s.resetLow := rfl
@[simp] theorem resetRing_pd (s : State) : (resetRing s).pd = s.pd := rfl
@[simp] theorem resetRing_mem (s : State) : (resetRing s).mem = s.mem := rfl
@[simp] theorem resetRing_bus (s : State) : (resetRing s).bus = s.bus := rfl
@[simp] theorem resetRing_map (s : State) : (resetRing s).map = s.map := rfl
@[simp] theorem resetRing_setup (s : State) : (resetRing s).setup = s.setup := rfl
@[simp] theorem resetRing_cap (s : State) : (resetRing s).cap = s.cap := rfl
@[simp] theorem resetRing_trk (s : State) : (resetRing s).trk = s.trk := rfl
@[simp] theorem resetRing_pln (s : State) : (resetRing s).pln = s.pln := rfl
@[simp] theorem resetRing_vce (s : State) : (resetRing s).vce = s.vce := rfl
@[simp] theorem resetRing_crx (s : State) : (resetRing s).crx = s.crx := rfl
@[simp] theorem resetRing_csc (s : State) : (resetRing s).csc = s.csc := rfl

@[simp] theorem emptyEvents_pending (s : State) : (emptyEvents s).pending = s.pending := rfl
@[simp] theorem emptyEvents_resetLow (s : State) : (emptyEvents s).resetLow = s.resetLow := rfl
@[simp] theorem emptyEvents_pd (s : State) : (emptyEvents s).pd = s.pd := rfl
@[simp] theorem emptyEvents_mem (s : State) : (emptyEvents s).mem = s.mem := rfl
@[simp] theorem emptyEvents_bus (s : State) : (emptyEvents s).bus = s.bus := rfl
@[simp] theorem emptyEvents_map (s : State) : (emptyEvents s).map = s.map := rfl
@[simp] theorem emptyEvents_setup (s : State) : (emptyEvents s).setup = s.setup := rfl
@[simp] theorem emptyEvents_cap (s : State) : (emptyEvents s).cap = s.cap := rfl
@[simp] theorem emptyEvents_trk (s : State) : (emptyEvents s).trk = s.trk := rfl
@[simp] theorem emptyEvents_pln (s : State) : (emptyEvents s).pln = s.pln := rfl
@[simp] theorem emptyEvents_vce (s : State) : (emptyEvents s).vce = s.vce := rfl
@[simp] theorem emptyEvents_crx (s : State) : (emptyEvents s).crx = s.crx := rfl
@[simp] theorem emptyEvents_csc (s : State) : (emptyEvents s).csc = s.csc := rfl

@[simp] theorem clearHops_pending (s : State) : (clearHops s).pending = s.pending := rfl
@[simp] theorem clearHops_resetLow (s : State) : (clearHops s).resetLow = s.resetLow := rfl
@[simp] theorem clearHops_pd (s : State) : (clearHops s).pd = s.pd := rfl
@[simp] theorem clearHops_mem (s : State) : (clearHops s).mem = s.mem := rfl
@[simp] theorem clearHops_bus (s : State) : (clearHops s).bus = s.bus := rfl
@[simp] theorem clearHops_map (s : State) : (clearHops s).map = s.map := rfl
@[simp] theorem clearHops_setup (s : State) : (clearHops s).setup = s.setup := rfl
@[simp] theorem clearHops_cap (s : State) : (clearHops s).cap = s.cap := rfl
@[simp] theorem clearHops_trk (s : State) : (clearHops s).trk = s.trk := rfl
@[simp] theorem clearHops_pln (s : State) : (clearHops s).pln = s.pln := rfl
@[simp] theorem clearHops_vce (s : State) : (clearHops s).vce = s.vce := rfl
@[simp] theorem clearHops_crx (s : State) : (clearHops s).crx = s.crx := rfl
@[simp] theorem clearHops_csc (s : State) : (clearHops s).csc = s.csc := rfl

@[simp] theorem setEngine_pending (s : State) (e : Engine) : (setEngine s e).pending = s.pending := rfl
@[simp] theorem setEngine_resetLow (s : State) (e : Engine) : (setEngine s e).resetLow = s.resetLow := rfl
@[simp] theorem setEngine_pd (s : State) (e : Engine) : (setEngine s e).pd = s.pd := rfl
@[simp] theorem setEngine_mem (s : State) (e : Engine) : (setEngine s e).mem = s.mem := rfl
@[simp] theorem setEngine_bus (s : State) (e : Engine) : (setEngine s e).bus = s.bus := rfl
@[simp] theorem setEngine_map (s : State) (e : Engine) : (setEngine s e).map = s.map := rfl
@[simp] theorem setEngine_cap (s : State) (e : Engine) : (setEngine s e).cap = s.cap := rfl
@[simp] theorem setEngine_trk (s : State) (e : Engine) : (setEngine s e).trk = s.trk := rfl
@[simp] theorem setEngine_pln (s : State) (e : Engine) : (setEngine s e).pln = s.pln := rfl
@[simp] theorem setEngine_vce (s : State) (e : Engine) : (setEngine s e).vce = s.vce := rfl
@[simp] theorem setEngine_crx (s : State) (e : Engine) : (setEngine s e).crx = s.crx := rfl
@[simp] theorem setEngine_csc (s : State) (e : Engine) : (setEngine s e).csc = s.csc := rfl
@[simp] theorem setEngine_rpt (s : State) (e : Engine) : (setEngine s e).rpt = s.rpt := rfl

@[simp] theorem copySetup_pending (s : State) : (copySetup s).pending = s.pending := rfl
@[simp] theorem copySetup_resetLow (s : State) : (copySetup s).resetLow = s.resetLow := rfl
@[simp] theorem copySetup_pd (s : State) : (copySetup s).pd = s.pd := rfl
@[simp] theorem copySetup_mem (s : State) : (copySetup s).mem = s.mem := rfl
@[simp] theorem copySetup_bus (s : State) : (copySetup s).bus = s.bus := rfl
@[simp] theorem copySetup_cap (s : State) : (copySetup s).cap = s.cap := rfl
@[simp] theorem copySetup_trk (s : State) : (copySetup s).trk = s.trk := rfl
@[simp] theorem copySetup_pln (s : State) : (copySetup s).pln = s.pln := rfl
@[simp] theorem copySetup_vce (s : State) : (copySetup s).vce = s.vce := rfl
@[simp] theorem copySetup_crx (s : State) : (copySetup s).crx = s.crx := rfl
@[simp] theorem copySetup_csc (s : State) : (copySetup s).csc = s.csc := rfl
@[simp] theorem copySetup_rpt (s : State) : (copySetup s).rpt = s.rpt := rfl

@[simp] theorem endCommand_pending (s : State) (w : StatusWrite) : (endCommand s w).pending = s.pending := rfl
@[simp] theorem endCommand_resetLow (s : State) (w : StatusWrite) : (endCommand s w).resetLow = s.resetLow := rfl
@[simp] theorem endCommand_pd (s : State) (w : StatusWrite) : (endCommand s w).pd = s.pd := rfl
@[simp] theorem endCommand_mem (s : State) (w : StatusWrite) : (endCommand s w).mem = s.mem := rfl
@[simp] theorem endCommand_map (s : State) (w : StatusWrite) : (endCommand s w).map = s.map := rfl
@[simp] theorem endCommand_cap (s : State) (w : StatusWrite) : (endCommand s w).cap = s.cap := rfl
@[simp] theorem endCommand_trk (s : State) (w : StatusWrite) : (endCommand s w).trk = s.trk := rfl
@[simp] theorem endCommand_pln (s : State) (w : StatusWrite) : (endCommand s w).pln = s.pln := rfl
@[simp] theorem endCommand_vce (s : State) (w : StatusWrite) : (endCommand s w).vce = s.vce := rfl
@[simp] theorem endCommand_crx (s : State) (w : StatusWrite) : (endCommand s w).crx = s.crx := rfl
@[simp] theorem endCommand_csc (s : State) (w : StatusWrite) : (endCommand s w).csc = s.csc := rfl
@[simp] theorem endCommand_rpt (s : State) (w : StatusWrite) : (endCommand s w).rpt = s.rpt := rfl

@[simp] theorem startCapture_pending (s : State) : (startCapture s).pending = s.pending := rfl
@[simp] theorem startCapture_resetLow (s : State) : (startCapture s).resetLow = s.resetLow := rfl
@[simp] theorem startCapture_pd (s : State) : (startCapture s).pd = s.pd := rfl
@[simp] theorem startCapture_mem (s : State) : (startCapture s).mem = s.mem := rfl
@[simp] theorem startCapture_bus (s : State) : (startCapture s).bus = s.bus := rfl
@[simp] theorem startCapture_map (s : State) : (startCapture s).map = s.map := rfl
@[simp] theorem startCapture_setup (s : State) : (startCapture s).setup = s.setup := rfl
@[simp] theorem startCapture_trk (s : State) : (startCapture s).trk = s.trk := rfl
@[simp] theorem startCapture_pln (s : State) : (startCapture s).pln = s.pln := rfl
@[simp] theorem startCapture_vce (s : State) : (startCapture s).vce = s.vce := rfl
@[simp] theorem startCapture_crx (s : State) : (startCapture s).crx = s.crx := rfl
@[simp] theorem startCapture_csc (s : State) : (startCapture s).csc = s.csc := rfl
@[simp] theorem startCapture_rpt (s : State) : (startCapture s).rpt = s.rpt := rfl

@[simp] theorem setOffset_pending (s : State) (n : Nat) : (setOffset s n).pending = s.pending := rfl
@[simp] theorem setOffset_resetLow (s : State) (n : Nat) : (setOffset s n).resetLow = s.resetLow := rfl
@[simp] theorem setOffset_pd (s : State) (n : Nat) : (setOffset s n).pd = s.pd := rfl
@[simp] theorem setOffset_mem (s : State) (n : Nat) : (setOffset s n).mem = s.mem := rfl
@[simp] theorem setOffset_bus (s : State) (n : Nat) : (setOffset s n).bus = s.bus := rfl
@[simp] theorem setOffset_map (s : State) (n : Nat) : (setOffset s n).map = s.map := rfl
@[simp] theorem setOffset_setup (s : State) (n : Nat) : (setOffset s n).setup = s.setup := rfl
@[simp] theorem setOffset_trk (s : State) (n : Nat) : (setOffset s n).trk = s.trk := rfl
@[simp] theorem setOffset_pln (s : State) (n : Nat) : (setOffset s n).pln = s.pln := rfl
@[simp] theorem setOffset_vce (s : State) (n : Nat) : (setOffset s n).vce = s.vce := rfl
@[simp] theorem setOffset_crx (s : State) (n : Nat) : (setOffset s n).crx = s.crx := rfl
@[simp] theorem setOffset_csc (s : State) (n : Nat) : (setOffset s n).csc = s.csc := rfl
@[simp] theorem setOffset_rpt (s : State) (n : Nat) : (setOffset s n).rpt = s.rpt := rfl

@[simp] theorem placeSample_pending (s : State) (x : Sample) : (placeSample s x).pending = s.pending := rfl
@[simp] theorem placeSample_resetLow (s : State) (x : Sample) : (placeSample s x).resetLow = s.resetLow := rfl
@[simp] theorem placeSample_pd (s : State) (x : Sample) : (placeSample s x).pd = s.pd := rfl
@[simp] theorem placeSample_mem (s : State) (x : Sample) : (placeSample s x).mem = s.mem := rfl
@[simp] theorem placeSample_bus (s : State) (x : Sample) : (placeSample s x).bus = s.bus := rfl
@[simp] theorem placeSample_map (s : State) (x : Sample) : (placeSample s x).map = s.map := rfl
@[simp] theorem placeSample_setup (s : State) (x : Sample) : (placeSample s x).setup = s.setup := rfl
@[simp] theorem placeSample_pln (s : State) (x : Sample) : (placeSample s x).pln = s.pln := rfl
@[simp] theorem placeSample_vce (s : State) (x : Sample) : (placeSample s x).vce = s.vce := rfl
@[simp] theorem placeSample_crx (s : State) (x : Sample) : (placeSample s x).crx = s.crx := rfl
@[simp] theorem placeSample_csc (s : State) (x : Sample) : (placeSample s x).csc = s.csc := rfl
@[simp] theorem placeSample_rpt (s : State) (x : Sample) : (placeSample s x).rpt = s.rpt := rfl

@[simp] theorem hopBoundary_pending (s : State) (w : Word) : (hopBoundary s w).pending = s.pending := rfl
@[simp] theorem hopBoundary_resetLow (s : State) (w : Word) : (hopBoundary s w).resetLow = s.resetLow := rfl
@[simp] theorem hopBoundary_pd (s : State) (w : Word) : (hopBoundary s w).pd = s.pd := rfl
@[simp] theorem hopBoundary_mem (s : State) (w : Word) : (hopBoundary s w).mem = s.mem := rfl
@[simp] theorem hopBoundary_bus (s : State) (w : Word) : (hopBoundary s w).bus = s.bus := rfl
@[simp] theorem hopBoundary_map (s : State) (w : Word) : (hopBoundary s w).map = s.map := rfl
@[simp] theorem hopBoundary_setup (s : State) (w : Word) : (hopBoundary s w).setup = s.setup := rfl
@[simp] theorem hopBoundary_cap (s : State) (w : Word) : (hopBoundary s w).cap = s.cap := rfl
@[simp] theorem hopBoundary_pln (s : State) (w : Word) : (hopBoundary s w).pln = s.pln := rfl
@[simp] theorem hopBoundary_vce (s : State) (w : Word) : (hopBoundary s w).vce = s.vce := rfl
@[simp] theorem hopBoundary_crx (s : State) (w : Word) : (hopBoundary s w).crx = s.crx := rfl
@[simp] theorem hopBoundary_csc (s : State) (w : Word) : (hopBoundary s w).csc = s.csc := rfl

/-! ### 2. Fields an update changes -/

@[simp] theorem beginStep_pd (s : State) : (beginStep s).pd = none := rfl
@[simp] theorem postWrite_bus (s : State) (a : Addr) (d : Word) :
    (postWrite s a d).bus = { s.bus with queue := s.bus.queue ++ [⟨a, d⟩] } := rfl
@[simp] theorem requestWrite_bus (s : State) (w : PartWrite) :
    (requestWrite s w).bus = { s.bus with requests := s.bus.requests ++ [w] } := rfl
@[simp] theorem requestWrites_bus (s : State) (ws : List PartWrite) :
    (requestWrites s ws).bus = { s.bus with requests := s.bus.requests ++ ws } := rfl
@[simp] theorem freePort_bus (s : State) : (freePort s).bus = { s.bus with port := none } := rfl
@[simp] theorem storeWord_mem (s : State) (a : Addr) (d : Word) :
    (storeWord s a d).mem = Memory.write s.mem a.toNat d := rfl
@[simp] theorem endCycle_pd (s : State) (data : Option Word) : (endCycle s data).pd = data := rfl
@[simp] theorem endCycle_bus (s : State) (data : Option Word) :
    (endCycle s data).bus = { s.bus with cycle := none } := rfl
@[simp] theorem holdCycle_bus (s : State) (c : Cycle) :
    (holdCycle s c).bus = { s.bus with cycle := some c } := rfl
@[simp] theorem releaseCycle_bus (s : State) :
    (releaseCycle s).bus = { s.bus with cycle := none } := rfl
@[simp] theorem takeSetupWord_setup (s : State) (n : Nat) (d : Word) :
    (takeSetupWord s n d).setup = { s.setup with shadow := setSetupWord n d s.setup.shadow } := rfl
@[simp] theorem setVoice_vce (s : State) (v : Fin 4) (r : VoiceRecord) :
    (setVoice s v r).vce = { s.vce with voices := s.vce.voices.set v r } := rfl
@[simp] theorem clearMixFlag_vce (s : State) :
    (clearMixFlag s).vce = { s.vce with mixClipped := false } := rfl
@[simp] theorem clearTrackerFlags_trk (s : State) :
    (clearTrackerFlags s).trk = { s.trk with newRecord := false, skipped := false } := rfl
@[simp] theorem clearTracker_trk (s : State) : (clearTracker s).trk = s.trk.cleared := rfl
@[simp] theorem endAnalysis_trk (s : State) :
    (endAnalysis s).trk = { s.trk with inFlight := none } := rfl
@[simp] theorem setPlan_pln (s : State) (v : Fin 4) (p : VoicePlan) :
    (setPlan s v p).pln = { s.pln with voices := s.pln.voices.set v p } := rfl
@[simp] theorem executeHold_pln (s : State) :
    (executeHold s).pln = { s.pln with hold := true } := rfl
@[simp] theorem setAtList_csc (s : State) (l : List AtEntry) :
    (setAtList s l).csc = { s.csc with atList := l } := rfl
@[simp] theorem emptyLists_csc (s : State) : (emptyLists s).csc = ⟨[], []⟩ := rfl
@[simp] theorem fallAsleep_crx (s : State) : (fallAsleep s).crx =
    { s.crx with state := .asleep, buffer := [], timer := false } := rfl
@[simp] theorem lineRises_crx (s : State) :
    (lineRises s).crx = { s.crx with lineLow := false } := rfl
@[simp] theorem fallWasNoise_crx (s : State) : (fallWasNoise s).crx =
    { s.crx with lineLow := false, timer := s.crx.timer || decide (s.crx.state = .awake) } := rfl
@[simp] theorem seeFall_crx (s : State) : (seeFall s).crx =
    if s.crx.lineLow then s.crx else s.crx.fall s.setup.active.general.divisor := by
  unfold seeFall; split <;> rfl
@[simp] theorem fall_state (r : Receiver) (d : BitVec 12) : (r.fall d).state = r.state := by
  obtain ⟨x, _, _, _, _, _⟩ := r
  cases x <;> rfl
@[simp] theorem fall_lineLow (r : Receiver) (d : BitVec 12) : (r.fall d).lineLow = true := by
  obtain ⟨x, _, _, _, _, _⟩ := r
  cases x <;> rfl
@[simp] theorem resetRing_rpt (s : State) : (resetRing s).rpt =
    { s.rpt with producer := 0, consumer := 0, unconsumed := [], ringWritten := false } := rfl
@[simp] theorem emptyEvents_rpt (s : State) :
    (emptyEvents s).rpt = { s.rpt with queue := [], lost := false } := rfl
@[simp] theorem clearHops_rpt (s : State) : (clearHops s).rpt = { s.rpt with hopCounter := 0 } := rfl
@[simp] theorem setEngine_setup (s : State) (e : Engine) :
    (setEngine s e).setup = { s.setup with engine := e } := rfl
@[simp] theorem copySetup_setup (s : State) :
    (copySetup s).setup = { s.setup with active := s.setup.shadow } := rfl
@[simp] theorem copySetup_map (s : State) :
    (copySetup s).map = { s.map with entries := s.setup.shadow.windows } := rfl
@[simp] theorem endCommand_setup (s : State) (w : StatusWrite) :
    (endCommand s w).setup = { s.setup with command := none, status := some w } := rfl
@[simp] theorem startCapture_cap (s : State) : (startCapture s).cap = CaptureUnit.start := rfl
@[simp] theorem setOffset_cap (s : State) (n : Nat) :
    (setOffset s n).cap = { s.cap with offset := some n, c := 0, fill := 0 } := rfl
@[simp] theorem placeSample_cap (s : State) (x : Sample) : (placeSample s x).cap =
    { s.cap with c := s.cap.c + 1, fill := min Config.fillLimit (s.cap.fill + 1) } := rfl
@[simp] theorem placeSample_trk (s : State) (x : Sample) :
    (placeSample s x).trk = s.trk.push x := rfl
@[simp] theorem hopBoundary_trk (s : State) (w : Word) :
    (hopBoundary s w).trk = s.trk.hop s.setup.active.general w := rfl
@[simp] theorem hopBoundary_rpt (s : State) (w : Word) :
    (hopBoundary s w).rpt = { s.rpt with hopCounter := s.rpt.hopCounter + 1 } := rfl

/-- A voice read back after it is set. -/
@[simp] theorem voiceOf_setVoice_same (s : State) (v : Fin 4) (r : VoiceRecord) :
    voiceOf (setVoice s v r) v = r := by simp [voiceOf]

/-- Another voice is kept when one is set. -/
theorem voiceOf_setVoice_other (s : State) (v u : Fin 4) (r : VoiceRecord) (h : u ≠ v) :
    voiceOf (setVoice s v r) u = voiceOf s u := by
  simp [voiceOf, Fin.val_ne_of_ne (Ne.symm h)]

/-- A plan read back after it is set. -/
@[simp] theorem planOf_setPlan_same (s : State) (v : Fin 4) (p : VoicePlan) :
    planOf (setPlan s v p) v = p := by simp [planOf]

/-- Another plan is kept when one is set. -/
theorem planOf_setPlan_other (s : State) (v u : Fin 4) (p : VoicePlan) (h : u ≠ v) :
    planOf (setPlan s v p) u = planOf s u := by
  simp [planOf, Fin.val_ne_of_ne (Ne.symm h)]

end Sys2Proof.Machine
end

