-- ==== Sys2Proof/Laws/Memory.lean ====
section
/-! SUPPORT. External memory and the write post queue: read after write, the canonical form, and the
word a forwarded read finds. -/

namespace Sys2Proof.Machine

/-! ### Memory -/

/-- Below the least address of a canonical list nothing is listed. -/
theorem Memory.read_below {low : Nat} {m : Memory} (h : Memory.wfFrom low m = true) {a : Nat}
    (ha : a < low) : Memory.read m a = Memory.unlisted a := by
  induction m generalizing low with
  | nil => rfl
  | cons x rest ih =>
    obtain ⟨b, w⟩ := x
    simp only [Memory.wfFrom, Bool.and_eq_true, decide_eq_true_eq] at h
    have hb : b ≠ a := by omega
    simp only [Memory.read, hb, if_false]
    exact ih h.2 (by omega)

/-- A word written is read back. -/
theorem Memory.read_write_same {low : Nat} {m : Memory} (h : Memory.wfFrom low m = true)
    (a : Nat) (v : Word) : Memory.read (Memory.write m a v) a = v := by
  induction m generalizing low with
  | nil =>
    by_cases hv : v = Memory.unlisted a
    · subst hv; simp [Memory.write, Memory.read]
    · simp [Memory.write, Memory.read, hv]
  | cons x rest ih =>
    obtain ⟨b, w⟩ := x
    simp only [Memory.wfFrom, Bool.and_eq_true, decide_eq_true_eq] at h
    unfold Memory.write
    by_cases hlt : b < a
    · have hb : b ≠ a := by omega
      simp only [hlt, if_true, Memory.read, hb, if_false]
      exact ih h.2
    · simp only [hlt, if_false]
      by_cases hb : b = a
      · subst hb
        simp only [if_true]
        by_cases hv : v = Memory.unlisted b
        · simp only [hv, if_true]; exact Memory.read_below h.2 (by omega)
        · simp [hv, Memory.read]
      · simp only [hb, if_false]
        by_cases hv : v = Memory.unlisted a
        · simp only [hv, if_true, Memory.read, hb, if_false]
          exact Memory.read_below h.2 (by omega)
        · simp [hv, Memory.read]

/-- Every other word is kept by a write. -/
theorem Memory.read_write_other (m : Memory) (a : Nat) (v : Word) {c : Nat} (hc : c ≠ a) :
    Memory.read (Memory.write m a v) c = Memory.read m c := by
  induction m with
  | nil =>
    by_cases hv : v = Memory.unlisted a
    · simp [Memory.write, hv]
    · simp [Memory.write, hv, Memory.read, Ne.symm hc]
  | cons x rest ih =>
    obtain ⟨b, w⟩ := x
    unfold Memory.write
    by_cases hlt : b < a
    · simp only [hlt, if_true, Memory.read, ih]
    · simp only [hlt, if_false]
      by_cases hb : b = a
      · subst hb
        by_cases hv : v = Memory.unlisted b <;> simp [hv, Memory.read, Ne.symm hc]
      · by_cases hv : v = Memory.unlisted a <;> simp [hb, hv, Memory.read, Ne.symm hc]

/-- A write keeps the canonical form. -/
theorem Memory.wfFrom_write {low : Nat} {m : Memory} (h : Memory.wfFrom low m = true)
    {a : Nat} (hlow : low ≤ a) (ha : a < Config.memoryWords) (v : Word) :
    Memory.wfFrom low (Memory.write m a v) = true := by
  induction m generalizing low with
  | nil =>
    by_cases hv : v = Memory.unlisted a
    · simp [Memory.write, hv, Memory.wfFrom]
    · simp [Memory.write, hv, Memory.wfFrom, hlow, ha]
  | cons x rest ih =>
    obtain ⟨b, w⟩ := x
    simp only [Memory.wfFrom, Bool.and_eq_true, decide_eq_true_eq] at h
    obtain ⟨⟨⟨h1, h2⟩, h3⟩, h4⟩ := h
    have hall : Memory.wfFrom low ((b, w) :: rest) = true := by
      simp [Memory.wfFrom, h1, h2, h3, h4]
    unfold Memory.write
    by_cases hlt : b < a
    · simp only [hlt, if_true, Memory.wfFrom, Bool.and_eq_true, decide_eq_true_eq]
      exact ⟨⟨⟨h1, h2⟩, h3⟩, ih h4 (by omega)⟩
    · simp only [hlt, if_false]
      by_cases hb : b = a
      · subst hb
        simp only [if_true]
        by_cases hv : v = Memory.unlisted b
        · simp only [hv, if_true]
          clear ih hall
          cases rest with
          | nil => rfl
          | cons y more =>
            obtain ⟨c, u⟩ := y
            simp only [Memory.wfFrom, Bool.and_eq_true, decide_eq_true_eq] at h4 ⊢
            exact ⟨⟨⟨by omega, h4.1.1.2⟩, h4.1.2⟩, h4.2⟩
        · simp only [hv, if_false, Memory.wfFrom, Bool.and_eq_true, decide_eq_true_eq]
          exact ⟨⟨⟨h1, h2⟩, hv⟩, h4⟩
      · simp only [hb, if_false]
        by_cases hv : v = Memory.unlisted a
        · simp only [hv, if_true]; exact hall
        · simp only [hv, if_false, Memory.wfFrom, Bool.and_eq_true, decide_eq_true_eq]
          exact ⟨⟨⟨hlow, ha⟩, hv⟩, ⟨⟨by omega, h2⟩, h3⟩, h4⟩

/-- A word written at the port keeps memory canonical. -/
theorem storeWord_wf {s : State} (h : Memory.wf s.mem = true) (a : Addr) (d : Word) :
    Memory.wf (storeWord s a d).mem = true :=
  Memory.wfFrom_write h (Nat.zero_le _) a.isLt d

/-- The word at the port's address is the one written. -/
theorem loadWord_storeWord_same {s : State} (h : Memory.wf s.mem = true) (a : Addr) (d : Word) :
    loadWord (storeWord s a d) a = d :=
  Memory.read_write_same h a.toNat d

/-- Every other word stays. -/
theorem loadWord_storeWord_other (s : State) (a : Addr) (d : Word) {b : Addr} (hb : b ≠ a) :
    loadWord (storeWord s a d) b = loadWord s b :=
  Memory.read_write_other s.mem a.toNat d (fun h => hb (BitVec.eq_of_toNat_eq h))

/-- Reset memory is canonical. -/
theorem reset_memory_wf : Memory.wf State.reset.mem = true := rfl

/-! ### Forwarding (R150) -/

/-- The newest entry for its own address is found. -/
theorem forwarded_append_same (q : List QueueEntry) (a : Addr) (d : Word) :
    forwarded (q ++ [⟨a, d⟩]) a = some d := by
  simp [forwarded]

/-- An entry for another address is passed by. -/
theorem forwarded_append_other (q : List QueueEntry) {a b : Addr} (d : Word) (h : b ≠ a) :
    forwarded (q ++ [⟨b, d⟩]) a = forwarded q a := by
  simp [forwarded, h]

/-- The oldest entry is found only where no newer one is. -/
theorem forwarded_cons (e : QueueEntry) (q : List QueueEntry) (a : Addr) :
    forwarded (e :: q) a =
      (forwarded q a).or (if e.addr = a then some e.data else none) := by
  unfold forwarded
  rw [List.reverse_cons, List.find?_append]
  cases h : q.reverse.find? (fun e => decide (e.addr = a)) with
  | some x => simp
  | none => by_cases he : e.addr = a <;> simp [he]

end Sys2Proof.Machine
end

