-- ==== Sys2Proof/Laws/Frames.lean ====
section
/-! SUPPORT. What each shared operation may change, said once: events, claims, plans, cues, the arbiter.
The frames compose: each is reflexive and transitive. -/

namespace Sys2Proof.Machine

/-! ### The frames compose -/

theorem planOnly_refl (s : State) : planOnly s s := rfl

theorem planOnly_trans {s t u : State} (h₁ : planOnly s t) (h₂ : planOnly t u) : planOnly s u := by
  obtain ⟨_, _, _, _, ⟨_, _, _, _⟩, _, _, _, _, _, _, _, _, ⟨_, _, _, _, _, _, _, _⟩⟩ := s
  obtain ⟨_, _, _, _, ⟨_, _, _, _⟩, _, _, _, _, _, _, _, _, ⟨_, _, _, _, _, _, _, _⟩⟩ := t
  obtain ⟨_, _, _, _, ⟨_, _, _, _⟩, _, _, _, _, _, _, _, _, ⟨_, _, _, _, _, _, _, _⟩⟩ := u
  simp only [planOnly, State.mk.injEq, BusPath.mk.injEq, ReportUnit.mk.injEq, true_and, and_true]
    at h₁ h₂ ⊢
  simp only [h₁, h₂, and_self]

theorem eventsOnly_refl (s : State) : eventsOnly s s := rfl

theorem eventsOnly_trans {s t u : State} (h₁ : eventsOnly s t) (h₂ : eventsOnly t u) :
    eventsOnly s u := by
  obtain ⟨_, _, _, _, _, _, _, _, _, _, _, _, _, ⟨_, _, _, _, _, _, _, _⟩⟩ := s
  obtain ⟨_, _, _, _, _, _, _, _, _, _, _, _, _, ⟨_, _, _, _, _, _, _, _⟩⟩ := t
  obtain ⟨_, _, _, _, _, _, _, _, _, _, _, _, _, ⟨_, _, _, _, _, _, _, _⟩⟩ := u
  simp only [eventsOnly, State.mk.injEq, ReportUnit.mk.injEq, true_and] at h₁ h₂ ⊢
  simp only [h₁, h₂, and_self]

theorem busOnly_refl (s : State) : busOnly s s := rfl

theorem busOnly_trans {s t u : State} (h₁ : busOnly s t) (h₂ : busOnly t u) : busOnly s u := by
  obtain ⟨_, _, _, _, _, _, _, _, _, _, _, _, _, _⟩ := s
  obtain ⟨_, _, _, _, _, _, _, _, _, _, _, _, _, _⟩ := t
  obtain ⟨_, _, _, _, _, _, _, _, _, _, _, _, _, _⟩ := u
  simp only [busOnly, State.mk.injEq, true_and] at h₁ h₂ ⊢
  simp only [h₁, h₂, and_self]

theorem eventsOnly.planOnly {s t : State} (h : eventsOnly s t) : planOnly s t := by
  obtain ⟨_, _, _, _, ⟨_, _, _, _⟩, _, _, _, _, _, _, _, _, ⟨_, _, _, _, _, _, _, _⟩⟩ := s
  obtain ⟨_, _, _, _, ⟨_, _, _, _⟩, _, _, _, _, _, _, _, _, ⟨_, _, _, _, _, _, _, _⟩⟩ := t
  simp only [eventsOnly, State.mk.injEq, ReportUnit.mk.injEq, BusPath.mk.injEq, true_and] at h
  simp only [Machine.planOnly, h]

/-- A fold of operations within a plan's frame stays within it. -/
theorem planOnly_foldl {α : Type} {f : State → α → State} (h : ∀ s x, planOnly s (f s x))
    (l : List α) (s : State) : planOnly s (l.foldl f s) := by
  induction l generalizing s with
  | nil => exact planOnly_refl s
  | cons x rest ih => exact planOnly_trans (h s x) (ih (f s x))

/-! ### Events (R172) -/

/-- Raising an event changes the event queue or the lost flag alone. -/
theorem raiseEvent_eventsOnly (s : State) (e : Event) : eventsOnly s (raiseEvent s e) := by
  unfold raiseEvent
  split
  · split <;> rfl
  · rfl

/-- What raising an event can do to the queue: nothing, one event more, or the lost flag. -/
theorem raiseEvent_cases (s : State) (e : Event) :
    raiseEvent s e = s ∨
    (s.rpt.queue.length < 8 ∧
      raiseEvent s e = { s with rpt := { s.rpt with queue := s.rpt.queue ++ [e] } }) ∨
    (8 ≤ s.rpt.queue.length ∧
      raiseEvent s e = { s with rpt := { s.rpt with lost := true } }) := by
  unfold raiseEvent
  split
  · split
    · rename_i h; exact Or.inr (Or.inl ⟨h, rfl⟩)
    · rename_i h; exact Or.inr (Or.inr ⟨Nat.le_of_not_lt h, rfl⟩)
  · exact Or.inl rfl

/-- Raising events in order changes the event queue or the lost flag alone. -/
theorem raiseEvents_eventsOnly (es : List Event) (s : State) : eventsOnly s (raiseEvents s es) := by
  unfold raiseEvents
  induction es generalizing s with
  | nil => exact eventsOnly_refl s
  | cons e rest ih => exact eventsOnly_trans (raiseEvent_eventsOnly s e) (ih _)

/-- The event queue never grows past 8 (R172). -/
theorem raiseEvent_queue_le {s : State} (h : s.rpt.queue.length ≤ 8) (e : Event) :
    (raiseEvent s e).rpt.queue.length ≤ 8 := by
  rcases raiseEvent_cases s e with h' | ⟨h₁, h'⟩ | ⟨_, h'⟩
  · rw [h']; exact h
  · rw [h']; simpa using h₁
  · rw [h']; exact h

/-- Raising an event touches the Report Unit alone. -/
theorem raiseEvent_rptOnly (s : State) (e : Event) :
    raiseEvent s e = { s with rpt := (raiseEvent s e).rpt } := by
  unfold raiseEvent
  split
  · split <;> rfl
  · rfl

/-- The event queue and lost flag a raise leaves depend on nothing but the Report Unit's queue and flag,
the engine state, the map and the event mask. -/
theorem raiseEvent_rpt_congr {s t : State} (e : Event) (hr : t.rpt = s.rpt)
    (hm : t.map = s.map) (he : t.setup.engine = s.setup.engine)
    (ha : t.setup.active = s.setup.active) : (raiseEvent t e).rpt = (raiseEvent s e).rpt := by
  have hq : qualifies t e.kind = qualifies s e.kind := by
    simp only [qualifies, reportEntry, hm, he, ha]
  unfold raiseEvent
  rw [hq, hr]
  split
  · split <;> rfl
  · exact hr

/-- An event raised in one state leaves the Report Unit as if raised in another that agrees on what
qualifies it. -/
theorem raiseEvent_from {s t : State} (e : Event) (hr : t.rpt = s.rpt)
    (hm : t.map = s.map) (he : t.setup.engine = s.setup.engine)
    (ha : t.setup.active = s.setup.active) :
    raiseEvent t e = { t with rpt := (raiseEvent s e).rpt } := by
  rw [← raiseEvent_rpt_congr e hr hm he ha]
  exact raiseEvent_rptOnly t e

/-! ### Claims (R65 to R69, R76) -/

/-- A claim handed by the planner changes a voice record, or waits in the tap read in flight. -/
theorem handClaim_planOnly (s : State) (v : Fin 4) (c : Claim) : planOnly s (handClaim s v c) := by
  unfold handClaim
  split
  · split <;> rfl
  · rfl

/-- A claim handed by the planner leaves the planner alone. -/
@[simp] theorem handClaim_pln (s : State) (v : Fin 4) (c : Claim) : (handClaim s v c).pln = s.pln := by
  unfold handClaim
  split
  · split <;> rfl
  · rfl

/-- A claim handed by the planner raises no event. -/
@[simp] theorem handClaim_rpt (s : State) (v : Fin 4) (c : Claim) : (handClaim s v c).rpt = s.rpt := by
  unfold handClaim
  split
  · split <;> rfl
  · rfl

/-! ### Plans (R48, R49, R56) -/

theorem setPlan_planOnly (s : State) (v : Fin 4) (p : VoicePlan) : planOnly s (setPlan s v p) := rfl

theorem setVoice_planOnly (s : State) (v : Fin 4) (r : VoiceRecord) : planOnly s (setVoice s v r) :=
  rfl

theorem mapPlans_planOnly (s : State) (f : Fin 4 → VoicePlan → VoicePlan) :
    planOnly s (mapPlans s f) :=
  planOnly_foldl (fun s v => setPlan_planOnly s v _) _ s

theorem mapVoices_planOnly (s : State) (f : Fin 4 → VoiceRecord → VoiceRecord) :
    planOnly s (mapVoices s f) :=
  planOnly_foldl (fun s v => setVoice_planOnly s v _) _ s

theorem planVoice_planOnly (s : State) (v : Fin 4) (others : List (Fin 4)) :
    planOnly s (planVoice s v others) := by
  unfold planVoice
  dsimp only
  split
  · exact setPlan_planOnly s v _
  · exact planOnly_trans (setPlan_planOnly s v _) (raiseEvent_eventsOnly _ _).planOnly
  · split
    · exact setPlan_planOnly s v _
    · exact planOnly_trans (setPlan_planOnly s v _) (raiseEvent_eventsOnly _ _).planOnly

theorem handVoice_planOnly (s : State) (v : Fin 4) : planOnly s (handVoice s v) := by
  unfold handVoice
  dsimp only
  split
  · exact planOnly_trans (setPlan_planOnly s v _) (handClaim_planOnly _ _ _)
  · split
    · exact setPlan_planOnly s v _
    · split
      · exact planOnly_trans (setPlan_planOnly s v _) (handClaim_planOnly _ _ _)
      · exact planOnly_trans (setPlan_planOnly s v _) (handClaim_planOnly _ _ _)

/-- A re-plan of all voices touches the plans, the voice records, held claims and events alone. -/
theorem replanAll_planOnly (s : State) : planOnly s (replanAll s) :=
  planOnly_trans (planOnly_foldl (fun s v => planVoice_planOnly s v _) _ s)
    (planOnly_foldl handVoice_planOnly _ _)

theorem replanOne_planOnly (s : State) (v : Fin 4) : planOnly s (replanOne s v) :=
  planOnly_trans (planVoice_planOnly s v _) (handVoice_planOnly _ v)

theorem shiftUpdate_planOnly (s : State) (v : Fin 4) : planOnly s (shiftUpdate s v) := by
  unfold shiftUpdate
  dsimp only
  split
  · exact planOnly_refl s
  · split
    · exact planOnly_trans (planOnly_trans (setPlan_planOnly s v _)
        (raiseEvent_eventsOnly _ _).planOnly) (handClaim_planOnly _ _ _)
    · split
      · exact planOnly_trans (setPlan_planOnly s v _) (handClaim_planOnly _ _ _)
      · exact planOnly_trans (setPlan_planOnly s v _) (handClaim_planOnly _ _ _)
      · exact setPlan_planOnly s v _

theorem shiftUpdates_planOnly (s : State) : planOnly s (shiftUpdates s) :=
  planOnly_foldl shiftUpdate_planOnly _ s

theorem enableVoice_planOnly (s : State) (v : Fin 4) : planOnly s (enableVoice s v) := by
  unfold enableVoice
  split
  · exact planOnly_refl s
  · exact setPlan_planOnly s v _

theorem disableVoice_planOnly (s : State) (v : Fin 4) : planOnly s (disableVoice s v) := by
  unfold disableVoice
  dsimp only
  split
  · split
    · exact setPlan_planOnly s v _
    · exact planOnly_trans (setPlan_planOnly s v _) (handClaim_planOnly _ _ _)
  · exact planOnly_refl s

/-! ### Cues (R128 to R134) -/

theorem replanUnless_planOnly (b : Bool) (s : State) : planOnly s (replanUnless b s) := by
  unfold replanUnless
  split
  · exact planOnly_refl s
  · exact replanAll_planOnly s

/-- A change of the planner's own values is within a plan's frame. -/
theorem planner_planOnly (s : State) (p : Planner) : planOnly s { s with pln := p } := rfl

/-- A cue that may stand in a list touches the planner, the voices, held claims and events alone: not
the lists, the count, the setup or memory (R128). -/
theorem executeMusical_planOnly (b : Bool) (cue : MusicalCue) (s : State) :
    planOnly s (executeMusical b cue s) := by
  cases cue with
  | chord c =>
    show planOnly s (executeChord b c s)
    unfold executeChord
    split
    · exact planner_planOnly s _
    · exact planOnly_trans (planner_planOnly s _) (replanUnless_planOnly b _)
  | key k =>
    show planOnly s (executeKey b k s)
    unfold executeKey
    split
    · exact planner_planOnly s _
    · exact planOnly_trans (planner_planOnly s _) (replanUnless_planOnly b _)
  | voiceOn mask =>
    exact planOnly_trans (planOnly_foldl enableVoice_planOnly _ s) (replanUnless_planOnly b _)
  | voiceOff mask => exact planOnly_foldl disableVoice_planOnly _ s
  | voiceMode v m x =>
    show planOnly s (executeVoiceMode b v m x s)
    unfold executeVoiceMode
    dsimp only
    split
    · exact setPlan_planOnly s v _
    · split
      · exact setPlan_planOnly s v _
      · exact planOnly_trans (setPlan_planOnly s v _) (replanOne_planOnly _ v)
  | hold => exact planner_planOnly s _
  | release =>
    exact planOnly_trans (planOnly_trans (planner_planOnly s _) (mapPlans_planOnly _ _))
      (replanUnless_planOnly b _)

/-- The frame of the scheduler: a plan's frame with the lists. -/
def listsAndPlan (s t : State) : Prop := planOnly s { t with csc := s.csc }

theorem planOnly.csc {s t : State} (h : planOnly s t) : t.csc = s.csc := by rw [h]
theorem planOnly.cap {s t : State} (h : planOnly s t) : t.cap = s.cap := by rw [h]
theorem planOnly.trk {s t : State} (h : planOnly s t) : t.trk = s.trk := by rw [h]
theorem planOnly.setup {s t : State} (h : planOnly s t) : t.setup = s.setup := by rw [h]
theorem planOnly.map {s t : State} (h : planOnly s t) : t.map = s.map := by rw [h]
theorem planOnly.mem {s t : State} (h : planOnly s t) : t.mem = s.mem := by rw [h]
theorem planOnly.crx {s t : State} (h : planOnly s t) : t.crx = s.crx := by rw [h]
theorem planOnly.pending {s t : State} (h : planOnly s t) : t.pending = s.pending := by rw [h]
theorem planOnly.resetLow {s t : State} (h : planOnly s t) : t.resetLow = s.resetLow := by rw [h]
theorem planOnly.queue {s t : State} (h : planOnly s t) : t.bus.queue = s.bus.queue := by rw [h]
theorem planOnly.port {s t : State} (h : planOnly s t) : t.bus.port = s.bus.port := by rw [h]
theorem planOnly.requests {s t : State} (h : planOnly s t) :
    t.bus.requests = s.bus.requests := by rw [h]

/-- The scheduler's frame composes. -/
theorem listsAndPlan_trans {s t u : State} (h₁ : listsAndPlan s t) (h₂ : listsAndPlan t u) :
    listsAndPlan s u := by
  obtain ⟨_, _, _, _, ⟨_, _, _, _⟩, _, _, _, _, _, _, _, _, ⟨_, _, _, _, _, _, _, _⟩⟩ := s
  obtain ⟨_, _, _, _, ⟨_, _, _, _⟩, _, _, _, _, _, _, _, _, ⟨_, _, _, _, _, _, _, _⟩⟩ := t
  obtain ⟨_, _, _, _, ⟨_, _, _, _⟩, _, _, _, _, _, _, _, _, ⟨_, _, _, _, _, _, _, _⟩⟩ := u
  simp only [listsAndPlan, planOnly, State.mk.injEq, BusPath.mk.injEq, ReportUnit.mk.injEq,
    true_and, and_true] at h₁ h₂ ⊢
  simp only [h₁, h₂, and_self]

theorem planOnly.lists {s t : State} (h : planOnly s t) : listsAndPlan s t := by
  unfold listsAndPlan
  have hc := h.csc
  obtain ⟨_, _, _, _, _, _, _, _, _, _, _, _, _, _⟩ := t
  dsimp only at hc
  subst hc
  exact h

theorem setAtList_lists (s : State) (l : List AtEntry) : listsAndPlan s (setAtList s l) := rfl

/-- Executing the due front of the AT list: its frame, and the list it leaves (R131). -/
theorem executeDue_spec (list : List AtEntry) (s : State) :
    listsAndPlan s (executeDue list s) ∧
    (executeDue list s).csc = { s.csc with
      atList := list.dropWhile (fun e => isDue s.cap.count e.stamp) } := by
  induction list generalizing s with
  | nil => exact ⟨setAtList_lists s [], rfl⟩
  | cons e rest ih =>
    unfold executeDue
    by_cases h : isDue s.cap.count e.stamp = true
    · have hp := executeMusical_planOnly false e.cue (setAtList s rest)
      have hi := ih (executeMusical false e.cue (setAtList s rest))
      simp only [h, if_true, List.dropWhile_cons]
      refine ⟨listsAndPlan_trans (setAtList_lists s rest)
        (listsAndPlan_trans hp.lists hi.1), ?_⟩
      rw [hi.2, hp.csc, hp.cap]
      rfl
    · simp only [h, List.dropWhile_cons]
      exact ⟨setAtList_lists s _, rfl⟩

/-- The scheduler's frame with the capture state put back. -/
theorem listsAndPlan_ignoring_cap {s t : State} {c : CaptureUnit}
    (h : listsAndPlan { s with cap := c } t) : listsAndPlan s { t with cap := s.cap } := by
  obtain ⟨_, _, _, _, ⟨_, _, _, _⟩, _, _, _, _, _, _, _, _, ⟨_, _, _, _, _, _, _, _⟩⟩ := s
  obtain ⟨_, _, _, _, ⟨_, _, _, _⟩, _, _, _, _, _, _, _, _, ⟨_, _, _, _, _, _, _, _⟩⟩ := t
  simp only [listsAndPlan, planOnly, State.mk.injEq, BusPath.mk.injEq, ReportUnit.mk.injEq,
    true_and, and_true] at h ⊢
  simp only [h, and_self]

/-- An advance of the count: the count, the lists and a plan's frame. -/
theorem advanceCount_spec (s : State) (n : Nat) :
    (advanceCount s n).cap = { s.cap with count := s.cap.count + BitVec.ofNat 32 n } ∧
    listsAndPlan s { advanceCount s n with cap := s.cap } ∧
    (advanceCount s n).csc = { s.csc with
      atList := s.csc.atList.dropWhile
        (fun e => isDue (s.cap.count + BitVec.ofNat 32 n) e.stamp) } := by
  have h := executeDue_spec s.csc.atList
    { s with cap := { s.cap with count := s.cap.count + BitVec.ofNat 32 n } }
  refine ⟨?_, ?_, h.2⟩
  · have := h.1
    unfold listsAndPlan at this
    exact this.cap
  · exact listsAndPlan_ignoring_cap h.1

/-- Executing the ONSET list empties it within the scheduler's frame (R132). -/
theorem executeOnsetList_spec (list : List MusicalCue) (s : State) :
    listsAndPlan s (executeOnsetList list s) ∧
    (executeOnsetList list s).csc = { s.csc with onsetList := [] } := by
  induction list generalizing s with
  | nil => exact ⟨rfl, rfl⟩
  | cons cue rest ih =>
    unfold executeOnsetList
    have hp := executeMusical_planOnly true cue
      { s with csc := { s.csc with onsetList := rest } }
    have hi := ih (executeMusical true cue { s with csc := { s.csc with onsetList := rest } })
    refine ⟨listsAndPlan_trans (t := { s with csc := { s.csc with onsetList := rest } }) rfl
      (listsAndPlan_trans hp.lists hi.1), ?_⟩
    rw [hi.2, hp.csc]

/-- The late entries of a rebase leave the lists as set (R133). -/
theorem executeLate_planOnly (list : List AtEntry) (s : State) :
    planOnly s (executeLate list s) := by
  induction list generalizing s with
  | nil => exact planOnly_refl s
  | cons e rest ih =>
    unfold executeLate
    split
    · exact planOnly_trans (planOnly_trans (raiseEvent_eventsOnly _ _).planOnly
        (executeMusical_planOnly _ _ _)) (ih _)
    · exact ih s

/-! ### The arbiter (R152) -/

/-- A grant takes the port, and at most one request with it. -/
theorem grant_cases (s : State) :
    grant s = s ∨ ∃ k ws, s.resetLow = false ∧ s.bus.port = none ∧
      chooseAccess s = some (k, ws) ∧
      grant s = { s with bus := { s.bus with port := some ⟨k, true⟩, requests := ws } } := by
  unfold grant
  split
  · exact Or.inl rfl
  · rename_i hr
    split
    · exact Or.inl rfl
    · rename_i hp
      split
      · exact Or.inl rfl
      · rename_i k ws hc
        exact Or.inr ⟨k, ws, by simpa using hr, hp, hc, rfl⟩

/-- A grant changes the bus path alone. -/
theorem grant_busOnly (s : State) : busOnly s (grant s) := by
  rcases grant_cases s with h | ⟨_, _, _, _, _, h⟩ <;> rw [h] <;> rfl

@[simp] theorem grant_pd (s : State) : (grant s).pd = s.pd := by
  rcases grant_cases s with h | ⟨_, _, _, _, _, h⟩ <;> rw [h]
@[simp] theorem grant_mem (s : State) : (grant s).mem = s.mem := by
  rcases grant_cases s with h | ⟨_, _, _, _, _, h⟩ <;> rw [h]
/-- While RESET is low nothing is granted (R140). -/
theorem grant_of_resetLow {s : State} (h : s.resetLow = true) : grant s = s := by
  simp only [grant, h, if_true]
@[simp] theorem grant_queue (s : State) : (grant s).bus.queue = s.bus.queue := by
  rcases grant_cases s with h | ⟨_, _, _, _, _, h⟩ <;> rw [h]
@[simp] theorem grant_cycle (s : State) : (grant s).bus.cycle = s.bus.cycle := by
  rcases grant_cases s with h | ⟨_, _, _, _, _, h⟩ <;> rw [h]

theorem busOnly.fields {s t : State} (h : busOnly s t) :
    t.pending = s.pending ∧ t.resetLow = s.resetLow ∧ t.mem = s.mem ∧ t.map = s.map ∧
    t.setup = s.setup ∧ t.cap = s.cap ∧ t.trk = s.trk ∧ t.pln = s.pln ∧ t.vce = s.vce ∧
    t.crx = s.crx ∧ t.csc = s.csc ∧ t.rpt = s.rpt := by
  rw [h]
  simp only [and_self]

/-- A part write requested before a grant is requested or granted after it. -/
theorem partWriteMade_grant {s : State} {w : PartWrite} (h : partWriteMade s w) :
    partWriteMade (grant s) w := by
  rcases grant_cases s with hg | ⟨k, ws, _, hp, hc, hg⟩
  · rw [hg]; exact h
  · rw [hg]
    rcases h with h | h
    · unfold chooseAccess at hc
      split at hc
      · simp only [Option.some.injEq, Prod.mk.injEq] at hc
        exact Or.inl (hc.2 ▸ h)
      · split at hc
        · simp at hc
        · rename_i w' ws' _ hr
          simp only [Option.some.injEq, Prod.mk.injEq] at hc
          rw [hr] at h
          rcases List.mem_cons.mp h with h | h
          · exact Or.inr (by rw [← hc.1, h])
          · exact Or.inl (hc.2 ▸ h)
        · rename_i hr
          rw [hr] at h
          simp at h
        · rename_i w' ws' _ hr
          rw [hr] at h
          split at hc
          · simp only [Option.some.injEq, Prod.mk.injEq] at hc
            exact Or.inl (hc.2 ▸ h)
          · simp only [Option.some.injEq, Prod.mk.injEq] at hc
            rcases List.mem_cons.mp h with h | h
            · exact Or.inr (by rw [← hc.1, h])
            · exact Or.inl (hc.2 ▸ h)
    · rw [hp] at h; simp at h

end Sys2Proof.Machine
end

