-- ==== Sys2Proof/Laws/CueEnables.lean ====
section
/-! SUPPORT. What VOICE_ON and VOICE_OFF make of the plans of a mask's voices, and the claims they hand
(R40, R41); what a change of all plans makes of each. -/

namespace Sys2Proof.Machine

/-! ### Plans, one by one -/

/-- A change of all plans changes each by its own function. -/
theorem planOf_mapPlans (s : State) (f : Fin 4 → VoicePlan → VoicePlan) (v : Fin 4) :
    planOf (mapPlans s f) v = f v (planOf s v) := by
  simp only [mapPlans, List.foldl_cons, List.foldl_nil]
  match v with
  | 0 => simp [planOf_setPlan_other]
  | 1 => simp [planOf_setPlan_other]
  | 2 => simp [planOf_setPlan_other]
  | 3 => simp [planOf_setPlan_other]

theorem mem_maskVoices (mask : BitVec 4) (v : Fin 4) :
    v ∈ maskVoices mask ↔ mask.getLsbD v.val = true := by
  unfold maskVoices
  match v with
  | 0 => simp
  | 1 => simp
  | 2 => simp
  | 3 => simp

/-! ### VOICE_ON (R40) -/

theorem planOf_enableVoice (s : State) (w v : Fin 4) :
    planOf (enableVoice s w) v =
      if v = w ∧ (planOf s v).enable = false then
        { planOf s v with enable := true, newlyEnabled := true }
      else planOf s v := by
  unfold enableVoice
  by_cases h : v = w
  · subst h
    cases he : (planOf s v).enable <;> simp
  · split
    · simp [h]
    · rw [planOf_setPlan_other _ _ _ _ h]
      simp [h]

theorem enableVoice_frame (s : State) (v : Fin 4) :
    enableVoice s v = { s with pln := { s.pln with voices := (enableVoice s v).pln.voices } } := by
  unfold enableVoice
  split <;> rfl

/-- Enabling several voices changes their plans alone, each once. -/
theorem foldl_enableVoice (l : List (Fin 4)) (s : State) :
    l.foldl enableVoice s =
        { s with pln := { s.pln with voices := (l.foldl enableVoice s).pln.voices } } ∧
      ∀ v, planOf (l.foldl enableVoice s) v =
        if v ∈ l ∧ (planOf s v).enable = false then
          { planOf s v with enable := true, newlyEnabled := true }
        else planOf s v := by
  induction l generalizing s with
  | nil => exact ⟨rfl, by simp⟩
  | cons w rest ih =>
    obtain ⟨hf, hp⟩ := ih (enableVoice s w)
    refine ⟨?_, fun v => ?_⟩
    · rw [List.foldl_cons, hf, enableVoice_frame s w]
    · rw [List.foldl_cons, hp, planOf_enableVoice]
      by_cases h : v = w
      · subst h
        cases he : (planOf s v).enable <;> simp [he]
      · cases he : (planOf s v).enable <;> simp [h, he]

/-! ### VOICE_OFF (R41) -/

/-- A claim handed reads no plan. -/
theorem setPlan_handClaim (s : State) (v w : Fin 4) (c : Claim) (p : VoicePlan) :
    setPlan (handClaim s v c) w p = handClaim (setPlan s w p) v c := by
  unfold handClaim
  rcases s with ⟨⟩
  simp only [setPlan]
  split
  · split <;> rfl
  · rfl

/-- What VOICE_OFF makes of a voice's plan. -/
def clearEnable (s : State) (v : Fin 4) : State :=
  if (planOf s v).enable then
    setPlan s v { planOf s v with enable := false, newlyEnabled := false }
  else s

/-- Whether VOICE_OFF hands a voice's disable claim: enabled, and not still newly enabled. -/
def handsDisable (s : State) (v : Fin 4) : Bool := (planOf s v).enable && !(planOf s v).newlyEnabled

theorem disableVoice_eq (s : State) (v : Fin 4) :
    disableVoice s v =
      if handsDisable s v then handClaim (clearEnable s v) v .disable else clearEnable s v := by
  unfold disableVoice handsDisable clearEnable
  cases he : (planOf s v).enable <;> cases hn : (planOf s v).newlyEnabled <;> simp [he, hn]

theorem planOf_clearEnable (s : State) (w v : Fin 4) :
    planOf (clearEnable s w) v =
      if v = w ∧ (planOf s v).enable = true then
        { planOf s v with enable := false, newlyEnabled := false }
      else planOf s v := by
  unfold clearEnable
  by_cases h : v = w
  · subst h
    cases he : (planOf s v).enable <;> simp
  · simp only [h, false_and, if_false]
    split
    · rw [planOf_setPlan_other _ _ _ _ h]
    · rfl

theorem clearEnable_frame (s : State) (v : Fin 4) :
    clearEnable s v = { s with pln := { s.pln with voices := (clearEnable s v).pln.voices } } := by
  unfold clearEnable
  split <;> rfl

/-- Clearing several voices' enables changes their plans alone, each once. -/
theorem foldl_clearEnable (l : List (Fin 4)) (s : State) :
    l.foldl clearEnable s =
        { s with pln := { s.pln with voices := (l.foldl clearEnable s).pln.voices } } ∧
      ∀ v, planOf (l.foldl clearEnable s) v =
        if v ∈ l ∧ (planOf s v).enable = true then
          { planOf s v with enable := false, newlyEnabled := false }
        else planOf s v := by
  induction l generalizing s with
  | nil => exact ⟨rfl, by simp⟩
  | cons w rest ih =>
    obtain ⟨hf, hp⟩ := ih (clearEnable s w)
    refine ⟨?_, fun v => ?_⟩
    · rw [List.foldl_cons, hf, clearEnable_frame s w]
    · rw [List.foldl_cons, hp, planOf_clearEnable]
      by_cases h : v = w
      · subst h
        cases he : (planOf s v).enable <;> simp [he]
      · cases he : (planOf s v).enable <;> simp [h, he]

theorem clearEnable_handClaim (s : State) (v w : Fin 4) (c : Claim) :
    clearEnable (handClaim s v c) w = handClaim (clearEnable s w) v c := by
  have h : planOf (handClaim s v c) w = planOf s w := by unfold planOf; rw [handClaim_pln]
  unfold clearEnable
  rw [h]
  split
  · exact setPlan_handClaim ..
  · rfl

theorem foldl_clearEnable_handClaim (l : List (Fin 4)) (s : State) (v : Fin 4) (c : Claim) :
    l.foldl clearEnable (handClaim s v c) = handClaim (l.foldl clearEnable s) v c := by
  induction l generalizing s with
  | nil => rfl
  | cons w rest ih => rw [List.foldl_cons, clearEnable_handClaim, ih]; rfl

/-- VOICE_OFF over distinct voices: all enables cleared, then the claims handed in order. -/
theorem foldl_disableVoice (l : List (Fin 4)) (distinct : l.Nodup) (s : State) :
    l.foldl disableVoice s =
      (l.filter (handsDisable s)).foldl (fun t v => handClaim t v .disable)
        (l.foldl clearEnable s) := by
  induction l generalizing s with
  | nil => rfl
  | cons w rest ih =>
    obtain ⟨hw, hr⟩ := List.nodup_cons.mp distinct
    have cleared : rest.filter (handsDisable (clearEnable s w)) = rest.filter (handsDisable s) :=
      List.filter_congr fun v hv => by
        have h : v ≠ w := fun e => hw (e ▸ hv)
        unfold handsDisable
        rw [planOf_clearEnable]
        simp [h]
    have handed (t : State) : handsDisable (handClaim t w .disable) = handsDisable t := by
      funext v
      unfold handsDisable planOf
      rw [handClaim_pln]
    rw [List.foldl_cons, ih hr, disableVoice_eq]
    cases h : handsDisable s w
    · simp [h, cleared]
    · simp only [if_true, handed, cleared, foldl_clearEnable_handClaim, List.filter_cons, h,
        List.foldl_cons]

/-- The voices of a mask, at a VOICE_OFF. -/
theorem foldl_disableVoice_mask (mask : BitVec 4) (s : State) :
    (maskVoices mask).foldl disableVoice s =
      ((maskVoices mask).filter (handsDisable s)).foldl (fun t v => handClaim t v .disable)
        ((maskVoices mask).foldl clearEnable s) :=
  foldl_disableVoice _ (List.Nodup.filter (l := ([0, 1, 2, 3] : List (Fin 4))) _ (by decide)) s

end Sys2Proof.Machine
end

