-- ==== Sys2Proof/Laws/Cycles.lean ====
section
/-! SUPPORT. Processor cycles and the memory port, said once: what a free port makes of a cycle, when a
write is taken at its presentation, and what a completion at the port comes to. -/

namespace Sys2Proof.Machine

/-! ### The rows that are one shared operation -/

/-- Every processor read is one cycle, whichever row it is given as. -/
theorem exec_reads (a : Addr) (s : State) :
    exec (.voiceStreamRead a) s = processorReadCycle a s ∧
    exec (.voicePeekRead a) s = processorReadCycle a s ∧
    exec (.mixStreamRead a) s = processorReadCycle a s ∧
    exec (.mixPeekRead a) s = processorReadCycle a s ∧
    exec (.voiceStatusRead a) s = processorReadCycle a s ∧
    exec (.trackerStatusRead a) s = processorReadCycle a s ∧
    exec (.mixStatusRead a) s = processorReadCycle a s ∧
    exec (.processorRead a) s = processorReadCycle a s :=
  ⟨rfl, rfl, rfl, rfl, rfl, rfl, rfl, rfl⟩

/-- Every processor write is one cycle, whichever row it is given as. -/
theorem exec_writes (a : Addr) (d : Word) (s : State) :
    exec (.setupWrite a d) s = processorWrite a d s ∧
    exec (.postedWrite a d) s = processorWrite a d s ∧
    exec (.windowFault a d) s = processorWrite a d s ∧
    exec (.consumerIndexWrite a d) s = processorWrite a d s ∧
    exec (.capture a d) s = processorWrite a d s :=
  ⟨rfl, rfl, rfl, rfl, rfl⟩

/-- Every command row is the write of its word at the control window's base. -/
theorem exec_commandWord {i : Instr} {d : Word} (h : i.commandWord? = some d) (s : State) :
    exec i s = processorWrite (controlAddr s 0) d s := by
  cases i <;> simp only [Instr.commandWord?, Option.some.injEq, reduceCtorEq] at h <;> subst h <;> rfl

/-! ### Taking a cycle (R138) -/

/-- A processor cycle at a free port. -/
theorem processorCycle_free {s : State} (h : portFree s) (c : Cycle) (present : State → State) :
    processorCycle c present s = .next (grant (present (beginStep s))) := by
  unfold processorCycle
  simp only [beginStep_bus, beginStep_resetLow, h.1, h.2]
  rfl

/-- A processor cycle while one is held is the model's one fault (notes/assumptions/6.md). -/
theorem processorCycle_held {s : State} {x : Cycle} (h : s.bus.cycle = some x) (c : Cycle)
    (present : State → State) : processorCycle c present s = .fault .processorCycleOverlap := by
  unfold processorCycle
  simp only [beginStep_bus, h]

/-- The window decoder reads the map and the engine state alone (R141, R142). -/
theorem classify_congr {s t : State} (hm : t.map = s.map)
    (he : t.setup.engine = s.setup.engine) (a : Addr) : classify t a = classify s a := by
  simp only [classify, decidingEntry, entriesInEffect, hm, he]

@[simp] theorem classify_beginStep (s : State) (a : Addr) :
    classify (beginStep s) a = classify s a := rfl
@[simp] theorem classify_releaseCycle (s : State) (a : Addr) :
    classify (releaseCycle s) a = classify s a := rfl

/-- With no cycle held, releasing the cycle changes nothing. -/
theorem releaseCycle_of_none {s : State} (h : s.bus.cycle = none) : releaseCycle s = s := by
  obtain ⟨_, _, _, _, ⟨_, _, _, _⟩, _, _, _, _, _, _, _, _, _⟩ := s
  simp only at h
  subst h
  rfl

/-- A write is taken where it is presented, when neither a command nor a full queue holds it (R138, R148,
R149). -/
theorem presentWrite_taken {s : State} {a : Addr} {d : Word} (hc : s.bus.cycle = none)
    (hw : s.setup.command = none ∨ waitsForCommand (classify s a) = false)
    (hq : s.bus.queue.length < 8 ∨ wouldPost s (classify s a) d = false) :
    presentWrite s a d = takeWrite s (classify s a) a d := by
  unfold presentWrite
  rw [releaseCycle_of_none hc]
  have h₁ : (s.setup.command.isSome && waitsForCommand (classify s a)) = false := by
    rcases hw with h | h <;> simp [h]
  have h₂ : (wouldPost s (classify s a) d && queueFull s) = false := by
    rcases hq with h | h
    · have : queueFull s = false := by simp [queueFull, Config.postQueueSize]; omega
      simp [this]
    · simp [h]
  simp only [h₁, h₂]
  rfl

/-- A write row at a free port with room and no command in progress: taken by its classification. -/
theorem processorWrite_taken {s : State} {a : Addr} {d : Word} (h : portFree s)
    (hw : s.setup.command = none ∨ waitsForCommand (classify s a) = false)
    (hq : s.bus.queue.length < 8 ∨ wouldPost s (classify s a) d = false) :
    processorWrite a d s = .next (grant (takeWrite (beginStep s) (classify s a) a d)) := by
  unfold processorWrite
  rw [processorCycle_free h]
  rw [presentWrite_taken (s := beginStep s) h.1 hw hq]
  rfl

/-- A read row at a free port: taken by its classification. -/
theorem processorReadCycle_free {s : State} (h : portFree s) (a : Addr) :
    processorReadCycle a s = .next (grant (presentRead (beginStep s) a)) := by
  unfold processorReadCycle
  rw [processorCycle_free h]

/-! ### The window decoder's first entry (R140 to R142) -/

/-- The control window decides every address it contains. -/
theorem classify_control {s : State} (h : controlPlaced s) {a : Addr}
    (h₁ : s.map.entry0.base.toNat ≤ a.toNat) (h₂ : a.toNat < s.map.entry0.base.toNat + 1024) :
    classify s a = some (.control, a.toNat - s.map.entry0.base.toNat) := by
  obtain ⟨cwb, hc⟩ := h
  have hs : s.map.entry0.size.toNat = 1024 := by rw [hc]; rfl
  have hr : Role.ofCode s.map.entry0.role = some .control := by rw [hc]; rfl
  have hin : s.map.entry0.contains a = true := by
    simp only [WindowEntry.contains, hr, hs, decide_eq_true_eq]
    exact ⟨by decide, by decide, h₁, h₂⟩
  have hd : decidingEntry s a = some s.map.entry0 := by
    unfold decidingEntry entriesInEffect
    split <;> simp [hin]
  simp only [classify, hd, hr, Option.map_some]

/-- The control window's words 0 to 1,023 by their offset. -/
theorem classify_controlAddr {s : State} (h : controlPlaced s) {n : Nat} (hn : n < 1024) :
    classify s (controlAddr s n) = some (.control, n) := by
  have hb : (controlAddr s n).toNat = s.map.entry0.base.toNat + n := by
    obtain ⟨cwb, hc⟩ := h
    have hbase : s.map.entry0.base.toNat = cwb.toNat * 65536 := by
      rw [hc]
      show (cwb ++ 0#16).toNat = _
      rw [BitVec.toNat_append, Nat.shiftLeft_eq]
      simp
    have := cwb.isLt
    simp only [controlAddr, BitVec.toNat_add, BitVec.toNat_ofNat, hbase]
    omega
  rw [classify_control h (by omega) (by omega), hb]
  simp

/-! ### The memory port (R139) -/

/-- A completion at the port, where its access is in progress and no held write goes before it. -/
theorem portStep_done {s : State} {x : Access} {f : Access → State → Option State} {t : State}
    (hp : s.bus.port = some x) (hh : heldWriteReady s = false)
    (hf : f x (freePort (beginStep s)) = some t) : portStep f s = .next (grant t) := by
  unfold portStep
  have hh' : heldWriteReady (beginStep s) = false := hh
  simp only [beginStep_bus, hp, hh', hf]
  rfl

/-- A part write's completion, with its owner waiting. -/
theorem finishPartWrite_live {owned : PartOwner → Bool} {done : PartOwner → State → State}
    {w : PartWrite} (ho : owned w.owner = true) (s : State) :
    finishPartWrite owned done ⟨.partWrite w, true⟩ s =
      some (done w.owner (storeWord s w.addr w.data)) := by
  simp only [finishPartWrite, ho, if_true]

/-! ### Accesses nobody waits for any more, after a fall of RESET (R140) -/

theorem finishProcessorRead_dropped (a : Addr) (s : State) :
    finishProcessorRead ⟨.processorRead a, false⟩ s = some s := rfl

theorem finishTapFetch_dropped (a : Addr) (s : State) :
    finishTapFetch ⟨.tapFetch a, false⟩ s = some s := by
  unfold finishTapFetch
  rcases s with ⟨_, _, _, _, ⟨_, _, _, _ | ⟨_ | _ | _ | _ | _ | _⟩⟩, _, _, _, _, _, _, _, _, _⟩ <;> rfl

theorem finishDrain_dropped (e : QueueEntry) (s : State) :
    finishDrain ⟨.drain e, false⟩ s = some (storeWord s e.addr e.data) := rfl

/-- A part write's completion, with its owner reset. -/
theorem finishPartWrite_dropped {owned : PartOwner → Bool} {done : PartOwner → State → State}
    {w : PartWrite} (ho : owned w.owner = true) (s : State) :
    finishPartWrite owned done ⟨.partWrite w, false⟩ s = some (storeWord s w.addr w.data) := by
  simp only [finishPartWrite, ho, if_true]
  rfl

/-! ### A record that is ready (R174) -/

/-- What starting a ready record can do: nothing where none may start, else the oldest event leaves the
queue with the lost flag and its four words are requested behind the requests that stand. -/
theorem startReadyRecord_cases (s : State) :
    (recordReady s = false ∧ startReadyRecord s = s) ∨
    ∃ e rest, recordReady s = true ∧ s.rpt.queue = e :: rest ∧ startReadyRecord s = { s with
      rpt := { s.rpt with queue := rest, lost := false, record := some e.kind }
      bus := { s.bus with
        requests := s.bus.requests ++ [0, 1, 2, 3].map (recordWrite s e) } } := by
  unfold startReadyRecord
  by_cases h : recordReady s = true
  · rw [if_pos h]
    split
    · rename_i hq; simp [recordReady, hq] at h
    · rename_i e rest hq; exact Or.inr ⟨e, rest, h, hq, rfl⟩
  · rw [if_neg h]; exact Or.inl ⟨by simpa using h, rfl⟩

/-- Starting a ready record touches the event queue, the lost flag, the record in flight and the
requests alone. -/
theorem startReadyRecord_frame (s : State) : startReadyRecord s = { s with
    rpt := { s.rpt with
      queue := (startReadyRecord s).rpt.queue
      lost := (startReadyRecord s).rpt.lost
      record := (startReadyRecord s).rpt.record }
    bus := { s.bus with requests := (startReadyRecord s).bus.requests } } := by
  rcases startReadyRecord_cases s with ⟨_, h⟩ | ⟨_, _, _, _, h⟩ <;> rw [h]

@[simp] theorem startReadyRecord_pending (s : State) : (startReadyRecord s).pending = s.pending := by
  rw [startReadyRecord_frame]
@[simp] theorem startReadyRecord_resetLow (s : State) : (startReadyRecord s).resetLow = s.resetLow := by
  rw [startReadyRecord_frame]
@[simp] theorem startReadyRecord_pd (s : State) : (startReadyRecord s).pd = s.pd := by
  rw [startReadyRecord_frame]
@[simp] theorem startReadyRecord_mem (s : State) : (startReadyRecord s).mem = s.mem := by
  rw [startReadyRecord_frame]
@[simp] theorem startReadyRecord_map (s : State) : (startReadyRecord s).map = s.map := by
  rw [startReadyRecord_frame]
@[simp] theorem startReadyRecord_setup (s : State) : (startReadyRecord s).setup = s.setup := by
  rw [startReadyRecord_frame]
@[simp] theorem startReadyRecord_cap (s : State) : (startReadyRecord s).cap = s.cap := by
  rw [startReadyRecord_frame]
@[simp] theorem startReadyRecord_trk (s : State) : (startReadyRecord s).trk = s.trk := by
  rw [startReadyRecord_frame]
@[simp] theorem startReadyRecord_pln (s : State) : (startReadyRecord s).pln = s.pln := by
  rw [startReadyRecord_frame]
@[simp] theorem startReadyRecord_vce (s : State) : (startReadyRecord s).vce = s.vce := by
  rw [startReadyRecord_frame]
@[simp] theorem startReadyRecord_crx (s : State) : (startReadyRecord s).crx = s.crx := by
  rw [startReadyRecord_frame]
@[simp] theorem startReadyRecord_csc (s : State) : (startReadyRecord s).csc = s.csc := by
  rw [startReadyRecord_frame]
@[simp] theorem startReadyRecord_queue (s : State) : (startReadyRecord s).bus.queue = s.bus.queue := by
  rw [startReadyRecord_frame]
@[simp] theorem startReadyRecord_port (s : State) : (startReadyRecord s).bus.port = s.bus.port := by
  rw [startReadyRecord_frame]
@[simp] theorem startReadyRecord_cycle (s : State) : (startReadyRecord s).bus.cycle = s.bus.cycle := by
  rw [startReadyRecord_frame]

/-- The event queue does not grow. -/
theorem startReadyRecord_events_le (s : State) :
    (startReadyRecord s).rpt.queue.length ≤ s.rpt.queue.length := by
  rcases startReadyRecord_cases s with ⟨_, h⟩ | ⟨_, _, _, hq, h⟩ <;> rw [h]
  simp [hq]

/-- A part write requested stays requested. -/
theorem startReadyRecord_requests (s : State) {w : PartWrite} (h : w ∈ s.bus.requests) :
    w ∈ (startReadyRecord s).bus.requests := by
  rcases startReadyRecord_cases s with ⟨_, h'⟩ | ⟨_, _, _, _, h'⟩ <;> rw [h']
  · exact h
  · exact List.mem_append_left _ h

/-- A tap read's fetch touches, beside what the read makes of it, what a ready record touches. -/
theorem afterTapFetch_cases (s : State) :
    afterTapFetch s = s ∨ (s.bus.cycle = none ∧ afterTapFetch s = startReadyRecord s) := by
  unfold afterTapFetch
  split
  · rename_i h; exact Or.inr ⟨h, rfl⟩
  · exact Or.inl rfl

end Sys2Proof.Machine
end

