-- ==== Sys2Proof/Laws/Link.lean ====
section
/-! SUPPORT. What a whole message taken from the link comes to (07, sections 7.2 to 7.4): the receiver
hears it to its end, and the CRC, then the body, decide. -/

namespace Sys2Proof.Machine

/-! ### The characters of a message (R120) -/

theorem messageChars_length (kind : Byte) (due : Due) (payload : List Byte) (e : BitVec 16) :
    (messageChars kind due payload e).length = (bodyChars kind due payload).length + 3 := by
  simp [messageChars]

/-- The receiver's state before the last character is forgotten as the message completes. -/
theorem completeMessage_congr {s t : State} (h : fallAsleep s = fallAsleep t) (chars : List Byte) :
    completeMessage s chars = completeMessage t chars := by
  unfold completeMessage
  rw [h]

/-- A character that comes while the line is high and the receiver AWAKE is taken with the timer
stopped. -/
theorem receiveCharacter_awake {s : State} (hs : s.crx.state = .awake) (hl : s.crx.lineLow = false)
    (flag : Bool) (value : Byte) :
    receiveCharacter s flag value = takeCharacter { s with crx := { s.crx with timer := false } } flag value := by
  unfold receiveCharacter seeFall Receiver.fall lineRises
  simp only [hl, hs, Bool.false_eq_true, if_false]

/-- In AWAKE the data characters of a message, taken one by one up to the last, complete it. -/
theorem takeCharacters_complete (n : Nat) (hlow : 2 ≤ n) (hhigh : n ≤ 9) (rest : List Byte)
    (s : State) (hs : s.crx.state = .awake) (hl : s.crx.lineLow = false)
    (hfirst : ((s.crx.buffer ++ rest).getD 0 0).toNat = n) (hrest : rest ≠ [])
    (hlen : s.crx.buffer.length + rest.length = n + 3) :
    rest.foldl (fun s c => receiveCharacter s false c) s =
      completeMessage s (s.crx.buffer ++ rest) := by
  induction rest generalizing s with
  | nil => exact absurd rfl hrest
  | cons c cs ih =>
    have hone : receiveCharacter s false c =
        takeDataChar { s with crx := { s.crx with timer := false } } c := by
      rw [receiveCharacter_awake hs hl]; unfold takeCharacter; simp [hs]
    have hhead : (s.crx.buffer ++ [c]).getD 0 0 = (s.crx.buffer ++ c :: cs).getD 0 0 := by
      cases s.crx.buffer <;> rfl
    have hlength : ((s.crx.buffer ++ [c]).getD 0 0).toNat = n := by rw [hhead]; exact hfirst
    have hsized : ¬ (((s.crx.buffer ++ [c]).getD 0 0).toNat < 2 ∨
        9 < ((s.crx.buffer ++ [c]).getD 0 0).toNat) := by omega
    rw [List.foldl_cons, hone]
    unfold takeDataChar
    dsimp only
    rw [if_neg hsized, hlength]
    cases cs with
    | nil =>
      have : (s.crx.buffer ++ [c]).length = n + 3 := by simpa using hlen
      rw [if_pos this]
      exact completeMessage_congr rfl _
    | cons d ds =>
      have : (s.crx.buffer ++ [c]).length ≠ n + 3 := by
        simp only [List.length_append, List.length_cons, List.length_nil] at hlen ⊢
        omega
      rw [if_neg this, ih]
      · simp only [List.append_assoc, List.singleton_append]
        exact completeMessage_congr rfl _
      · exact hs
      · exact hl
      · simpa using hfirst
      · simp
      · simp only [List.length_append, List.length_cons, List.length_nil] at hlen ⊢
        omega

/-- An address character that names the part wakes a receiver that is ASLEEP (R119). -/
theorem takeAddress_named {s : State} {dest : Byte} (h : listening s dest) :
    receiveCharacter s true dest =
      { s with crx := { heard s with state := .awake, timer := true } } := by
  obtain ⟨hs, hn⟩ := h
  have hfall : lineRises (seeFall s) =
      { s with crx := { s.crx with divisor := fallDivisor s, lineLow := false } } := by
    cases hl : s.crx.lineLow <;>
      simp [seeFall, Receiver.fall, lineRises, fallDivisor, hs, hl]
  unfold receiveCharacter
  rw [hfall]
  unfold takeCharacter
  simp only [hs, if_true]
  unfold compareAddress
  refine (if_pos ?_).trans rfl
  unfold addressMatches
  exact decide_eq_true hn

/-- A message for this part, its body of 2 to 9 characters, is heard to its end; the receiver is then
ASLEEP with an empty buffer (R119, R120). -/
theorem takeMessage_heard {s : State} {dest : Byte} (h : listening s dest) (kind : Byte) (due : Due)
    (payload : List Byte) (e : BitVec 16) (hlow : 2 ≤ (bodyChars kind due payload).length)
    (hhigh : (bodyChars kind due payload).length ≤ 9) :
    takeMessage s dest kind due payload e =
      completeMessage { s with crx := heard s } (messageChars kind due payload e) := by
  unfold takeMessage
  rw [takeAddress_named h, takeCharacters_complete _ hlow hhigh]
  · exact completeMessage_congr rfl _
  · rfl
  · rfl
  · have : (bodyChars kind due payload).length < 256 := by omega
    simp [heard, messageChars, Nat.mod_eq_of_lt this]
  · simp [messageChars]
  · simp [heard, messageChars_length]

/-! ### The checks (R121, R126, R127) -/

/-- The CRC a message carries is the computed one changed by its error pattern, and a message without
error goes to the body check (R121, R126). -/
theorem completeMessage_sized (s : State) (kind : Byte) (due : Due) (payload : List Byte)
    (e : BitVec 16) :
    let sized := BitVec.ofNat 8 (bodyChars kind due payload).length :: bodyChars kind due payload
    completeMessage s (messageChars kind due payload e) =
      if e ≠ 0 then
        raiseEvent (fallAsleep s)
          (eventNow s .linkBadCrc 0 none ((crcOf sized ^^^ e).setWidth 32) ((crcOf sized).setWidth 32))
      else
        match checkBody (fallAsleep s) (BitVec.ofNat 8 (bodyChars kind due payload).length)
            (bodyChars kind due payload) with
        | .error f => raiseEvent (fallAsleep s) (badCueEvent (fallAsleep s) f)
        | .ok (cue, due) => acceptCue (fallAsleep s) cue due := by
  intro sized
  have hn : (messageChars kind due payload e).length - 2 = sized.length := by
    simp [messageChars, sized]
  have htake : (messageChars kind due payload e).take sized.length = sized := by
    simp [messageChars, sized]
  have hlow : (messageChars kind due payload e).getD sized.length 0 =
      (crcOf sized ^^^ e).extractLsb' 0 8 := by simp [messageChars, sized]
  have hhigh : (messageChars kind due payload e).getD (sized.length + 1) 0 =
      (crcOf sized ^^^ e).extractLsb' 8 8 := by simp [messageChars, sized]
  have hcrc : (crcOf sized ^^^ e).extractLsb' 8 8 ++ (crcOf sized ^^^ e).extractLsb' 0 8 =
      crcOf sized ^^^ e := by
    generalize crcOf sized ^^^ e = w
    apply BitVec.eq_of_getLsbD_eq
    intro i hi
    simp only [BitVec.getLsbD_append, BitVec.getLsbD_extractLsb']
    by_cases h8 : i < 8
    · simp [h8]
    · have hs : 8 + (i - 8) = i := by omega
      have hl : i - 8 < 8 := by omega
      simp [h8, hs, hl]
  have hfirst : (messageChars kind due payload e).getD 0 0 =
      BitVec.ofNat 8 (bodyChars kind due payload).length := by simp [messageChars]
  unfold completeMessage
  dsimp only
  rw [hn, htake, hlow, hhigh, hcrc, hfirst]
  by_cases he : e = 0
  · subst he
    have : ¬ (crcOf sized ^^^ (0 : BitVec 16) ≠ crcOf sized) := by simp
    rw [if_neg this, if_neg (by simp)]
    rfl
  · have : crcOf sized ^^^ e ≠ crcOf sized := by
      intro hc
      apply he
      have := congrArg (crcOf sized ^^^ ·) hc
      simpa [← BitVec.xor_assoc] using this
    rw [if_pos this, if_pos he]
    rfl

/-! ### The body check (R126) -/

/-- Four characters of a word, low first, make the word again (R120). -/
theorem charsWord_wordChars (w : Word) (rest : List Byte) : charsWord (wordChars w ++ rest) = w := by
  unfold charsWord wordChars
  simp only [List.cons_append, List.nil_append, List.getD_cons_zero, List.getD_cons_succ]
  apply BitVec.eq_of_getLsbD_eq
  intro i hi
  simp only [BitVec.getLsbD_append, BitVec.getLsbD_extractLsb']
  by_cases h1 : i < 8
  · simp [h1]
  · by_cases h2 : i - 8 < 8
    · have : 8 + (i - 8) = i := by omega
      simp [h1, h2, this]
    · by_cases h3 : i - 8 - 8 < 8
      · have : 16 + (i - 8 - 8) = i := by omega
        simp [h1, h2, h3, this]
      · have : 24 + (i - 8 - 8 - 8) = i := by omega
        have h4 : i - 8 - 8 - 8 < 8 := by omega
        simp [h1, h2, h3, h4, this]

/-- A body's characters give back its due, its payload and its kind code. -/
theorem dueOf_bodyChars (kind : Byte) (due : Due) (payload : List Byte) :
    dueOf ((bodyChars kind due payload).getD 1 0) ((bodyChars kind due payload).drop 2) = some due ∧
    payloadOf due ((bodyChars kind due payload).drop 2) = payload ∧
    (bodyChars kind due payload).getD 0 0 = kind ∧
    (bodyChars kind due payload).length = 2 + stampSize due + payload.length := by
  cases due with
  | now => refine ⟨rfl, rfl, rfl, ?_⟩; simp [bodyChars, stampSize]; omega
  | onset => refine ⟨rfl, rfl, rfl, ?_⟩; simp [bodyChars, stampSize]; omega
  | atStamp w =>
    refine ⟨?_, rfl, rfl, ?_⟩
    · show some (Due.atStamp (charsWord (wordChars w ++ payload))) = _
      rw [charsWord_wordChars]
    · simp [bodyChars, stampSize, wordChars]; omega

/-- A body of the size its kind and due ask for, allowed its due, its payload in range and its shape
defined, passes the body check (R126). -/
theorem checkBody_passes (s : State) (kind : Byte) (due : Due) (payload : List Byte) (cue : Cue)
    (hsize : payloadSize kind = some payload.length) (hnow : (kind = 8 ∨ kind = 9) → due = .now)
    (hrange : payloadFault kind payload = none)
    (hshape : ¬ (kind = 1 ∧ (payload.getD 1 0).toNat ≤ 15 ∧
      shapeMask s (payload.getD 1 0).toNat = 0)) (hcue : cueOf kind payload = some cue) :
    checkBody s (BitVec.ofNat 8 (bodyChars kind due payload).length)
      (bodyChars kind due payload) = .ok (cue, due) := by
  obtain ⟨hd, hp, hk, hl⟩ := dueOf_bodyChars kind due payload
  have hsmall : payload.length ≤ 4 := by
    unfold payloadSize at hsize
    split at hsize <;> simp at hsize <;> omega
  have hstamp : stampSize due ≤ 4 := by cases due <;> simp [stampSize]
  have hlength : ¬ ((BitVec.ofNat 8 (bodyChars kind due payload).length).toNat ≠
      2 + stampSize due + payload.length) := by
    rw [hl, BitVec.toNat_ofNat, Nat.mod_eq_of_lt (by omega)]; simp
  unfold checkBody
  dsimp only
  rw [hk, hsize]
  dsimp only
  rw [hd]
  dsimp only
  rw [if_neg hlength, if_neg (fun h => h.2 (hnow h.1)), hp]
  unfold checkPayload
  dsimp only
  rw [hrange]
  dsimp only
  rw [if_neg hshape, hcue]

/-- A mode parameter that is well formed lies in its mode's range. -/
theorem modeParameterOk_inRange {mode parameter : Byte} (h : modeParameterOk mode parameter = true) :
    ∃ m, Mode.ofCode mode.toNat = some m ∧ m.inRange parameter.toInt = true := by
  unfold modeParameterOk at h
  unfold Mode.ofCode
  generalize mode.toNat = k at h ⊢
  match k with
  | 0 => exact ⟨_, rfl, h⟩
  | 1 => exact ⟨_, rfl, h⟩
  | 2 => exact ⟨_, rfl, h⟩
  | 3 =>
    refine ⟨_, rfl, ?_⟩
    have hp : parameter.toInt < 128 := by have := BitVec.toInt_lt (x := parameter); simpa using this
    simp only [decide_eq_true_eq] at h
    simp only [Mode.inRange, decide_eq_true_eq]
    omega
  | n + 4 => simp at h

/-- A well-formed cue row's message passes every check that does not read the state (R126). -/
theorem wellFormed_checks {i : Instr} {dest kind : Byte} {due : Due} {payload : List Byte}
    {e : BitVec 16} (h : i.cueMessage? = some (dest, kind, due, payload, e))
    (hw : i.wellFormed = true) :
    e = 0 ∧ payloadSize kind = some payload.length ∧ ((kind = 8 ∨ kind = 9) → due = .now) ∧
      payloadFault kind payload = none ∧
      ∃ cue, cueOf kind payload = some cue ∧ cue.code = kind := by
  cases i <;> simp only [Instr.cueMessage?, Option.some.injEq, Prod.mk.injEq, reduceCtorEq] at h <;>
    obtain ⟨rfl, rfl, rfl, rfl, rfl⟩ := h <;>
    simp only [Instr.wellFormed, Bool.and_eq_true, decide_eq_true_eq, maskOk] at hw
  case chord d u root shape e =>
    refine ⟨hw.2.2, rfl, by simp, ?_, _, rfl, rfl⟩
    show (if 11 < root.toNat then _ else
      if 15 < shape.toNat ∧ shape.toNat ≠ 255 then _ else none) = _
    rw [if_neg (by omega), if_neg (by omega)]
  case key d u root scale e =>
    refine ⟨hw.2.2, rfl, by simp, ?_, _, rfl, rfl⟩
    show (if 11 < root.toNat then _ else if 7 < scale.toNat then _ else none) = _
    rw [if_neg (by omega), if_neg (by omega)]
  case voiceOn d u mask e =>
    exact ⟨hw.2, rfl, by simp, by simp [payloadFault]; omega, _, rfl, rfl⟩
  case voiceOff d u mask e =>
    exact ⟨hw.2, rfl, by simp, by simp [payloadFault]; omega, _, rfl, rfl⟩
  case voiceMode d u voice mode parameter e =>
    obtain ⟨m, hm, hr⟩ := modeParameterOk_inRange hw.1.2
    refine ⟨hw.2, rfl, by simp, ?_, _, rfl, rfl⟩
    simp [payloadFault, hm, hr]
    omega
  case hold d u e => exact ⟨hw, rfl, by simp, rfl, _, rfl, rfl⟩
  case release d u e => exact ⟨hw, rfl, by simp, rfl, _, rfl, rfl⟩
  case timebase d u count e =>
    refine ⟨hw.2, rfl, fun _ => ?_, rfl, _, rfl, rfl⟩
    cases u <;> simp_all [Due.isNow]
  case clear d u e =>
    refine ⟨hw.2, rfl, fun _ => ?_, rfl, _, rfl, rfl⟩
    cases u <;> simp_all [Due.isNow]

/-! ### The assembly buffer (R120, section 7.3) -/

theorem assembling_nil {r : Receiver} (h : r.buffer = []) : r.assembling := Or.inl h

/-- A receiver whose buffer is another's agrees with it. -/
theorem assembling_congr {r x : Receiver} (h : r.assembling) (hb : x.buffer = r.buffer) :
    x.assembling := by
  unfold Receiver.assembling
  rw [hb]
  exact h

/-- A buffer that holds the beginning of a message never passes 12 characters. -/
theorem assembling_le {r : Receiver} (h : r.assembling) : r.buffer.length ≤ 12 := by
  rcases h with h | ⟨_, h₁, h₂⟩
  · rw [h]; decide
  · omega

/-- Raising an event leaves the receiver alone. -/
theorem raiseEvent_crx (s : State) (e : Event) : (raiseEvent s e).crx = s.crx :=
  (raiseEvent_eventsOnly s e).planOnly.crx

/-- A cue accepted leaves the receiver alone. -/
theorem acceptCue_crx (s : State) (cue : Cue) (due : Due) : (acceptCue s cue due).crx = s.crx := by
  unfold acceptCue
  split
  · unfold scheduleCue
    split
    · unfold scheduleMusical
      split
      · exact (executeMusical_planOnly _ _ _).crx
      · split
        · split
          · exact (executeMusical_planOnly _ _ _).crx
          · rw [(executeMusical_planOnly _ _ _).crx, raiseEvent_crx]
        · split
          · rfl
          · exact raiseEvent_crx _ _
      · split
        · rfl
        · exact raiseEvent_crx _ _
    · exact (executeLate_planOnly _ _).crx
    · rfl
  · exact raiseEvent_crx _ _
  · rfl

/-- A message that completes leaves the buffer empty. -/
theorem completeMessage_buffer (s : State) (chars : List Byte) :
    (completeMessage s chars).crx.buffer = [] := by
  unfold completeMessage
  dsimp only
  split
  · rw [raiseEvent_crx]; rfl
  · split
    · rw [raiseEvent_crx]; rfl
    · rw [acceptCue_crx]; rfl

/-- A data character taken keeps the buffer the beginning of a message. -/
theorem takeDataChar_assembling {s : State} (h : s.crx.assembling) (value : Byte) :
    (takeDataChar s value).crx.assembling := by
  unfold takeDataChar
  dsimp only
  split
  · exact assembling_nil (by rw [raiseEvent_crx]; rfl)
  · rename_i hrange
    split
    · exact assembling_nil (completeMessage_buffer _ _)
    · rename_i hlen
      show Receiver.assembling { s.crx with buffer := s.crx.buffer ++ [value], timer := true }
      refine Or.inr ⟨?_, ?_, ?_⟩ <;> dsimp only
      · omega
      · omega
      rcases h with h | ⟨hlow, _, h⟩
      · simp only [h, List.nil_append, List.length_singleton] at *
        omega
      · have hhead : (s.crx.buffer ++ [value]).getD 0 0 = s.crx.buffer.getD 0 0 := by
          cases hb : s.crx.buffer with
          | nil => rw [hb] at hlow; exact absurd hlow (by decide)
          | cons => rfl
        rw [hhead] at hlen ⊢
        simp only [List.length_append, List.length_singleton] at hlen ⊢
        omega

end Sys2Proof.Machine
end

