-- ==== Sys2Proof/Laws/PerInstr.lean ====
section
/-! SUPPORT. Facts about every command as syntax, one lemma per constructor. NoTableWord: no word of the
table spells the command, for spec/opcode_table.json gives no row bits. -/

/-- No word spells the command by the table's bits. -/
def Sys2Proof.Laws.NoTableWord.Statement (i : Sys2Proof.Instr) : Prop :=
  ∀ nbits w : Nat, Sys2Proof.decodeTableWord nbits w ≠ some i

namespace Sys2Proof.Laws.NoTableWord

theorem resetFall : Statement .resetFall := by
  intro _ _ h; cases h

theorem resetRise (cwb : BitVec 4) (stn : BitVec 5) : Statement (.resetRise cwb stn) := by
  intro _ _ h; cases h

theorem start (sequence : Byte) (upper : BitVec 16) : Statement (.start sequence upper) := by
  intro _ _ h; cases h

theorem apply (sequence : Byte) (upper : BitVec 16) : Statement (.apply sequence upper) := by
  intro _ _ h; cases h

theorem stop (sequence : Byte) (upper : BitVec 16) : Statement (.stop sequence upper) := by
  intro _ _ h; cases h

theorem restart (sequence : Byte) (upper : BitVec 16) : Statement (.restart sequence upper) := by
  intro _ _ h; cases h

theorem unknownCommand (word : Word) : Statement (.unknownCommand word) := by
  intro _ _ h; cases h

theorem commandCompletion : Statement .commandCompletion := by
  intro _ _ h; cases h

theorem setupWrite (a : Addr) (d : Word) : Statement (.setupWrite a d) := by
  intro _ _ h; cases h

theorem postedWrite (a : Addr) (d : Word) : Statement (.postedWrite a d) := by
  intro _ _ h; cases h

theorem windowFault (a : Addr) (d : Word) : Statement (.windowFault a d) := by
  intro _ _ h; cases h

theorem writeTakenAfterRoom : Statement .writeTakenAfterRoom := by
  intro _ _ h; cases h

theorem writeTakenAfterCommand : Statement .writeTakenAfterCommand := by
  intro _ _ h; cases h

theorem consumerIndexWrite (a : Addr) (d : Word) : Statement (.consumerIndexWrite a d) := by
  intro _ _ h; cases h

theorem capture (a : Addr) (d : Word) : Statement (.capture a d) := by
  intro _ _ h; cases h

theorem analysisCompletion : Statement .analysisCompletion := by
  intro _ _ h; cases h

theorem chord (dest : Byte) (due : Due) (root shape : Byte) (crcError : BitVec 16) :
    Statement (.chord dest due root shape crcError) := by
  intro _ _ h; cases h

theorem key (dest : Byte) (due : Due) (root scale : Byte) (crcError : BitVec 16) :
    Statement (.key dest due root scale crcError) := by
  intro _ _ h; cases h

theorem voiceOn (dest : Byte) (due : Due) (mask : Byte) (crcError : BitVec 16) :
    Statement (.voiceOn dest due mask crcError) := by
  intro _ _ h; cases h

theorem voiceOff (dest : Byte) (due : Due) (mask : Byte) (crcError : BitVec 16) :
    Statement (.voiceOff dest due mask crcError) := by
  intro _ _ h; cases h

theorem voiceMode (dest : Byte) (due : Due) (voice mode parameter : Byte) (crcError : BitVec 16) :
    Statement (.voiceMode dest due voice mode parameter crcError) := by
  intro _ _ h; cases h

theorem hold (dest : Byte) (due : Due) (crcError : BitVec 16) :
    Statement (.hold dest due crcError) := by
  intro _ _ h; cases h

theorem release (dest : Byte) (due : Due) (crcError : BitVec 16) :
    Statement (.release dest due crcError) := by
  intro _ _ h; cases h

theorem timebase (dest : Byte) (due : Due) (count : Word) (crcError : BitVec 16) :
    Statement (.timebase dest due count crcError) := by
  intro _ _ h; cases h

theorem clear (dest : Byte) (due : Due) (crcError : BitVec 16) :
    Statement (.clear dest due crcError) := by
  intro _ _ h; cases h

theorem linkBadChar (line : BitVec 11) : Statement (.linkBadChar line) := by
  intro _ _ h; cases h

theorem linkBreak : Statement .linkBreak := by
  intro _ _ h; cases h

theorem breakEnd : Statement .breakEnd := by
  intro _ _ h; cases h

theorem linkTruncated : Statement .linkTruncated := by
  intro _ _ h; cases h

theorem voiceStreamRead (a : Addr) : Statement (.voiceStreamRead a) := by
  intro _ _ h; cases h

theorem voicePeekRead (a : Addr) : Statement (.voicePeekRead a) := by
  intro _ _ h; cases h

theorem mixStreamRead (a : Addr) : Statement (.mixStreamRead a) := by
  intro _ _ h; cases h

theorem mixPeekRead (a : Addr) : Statement (.mixPeekRead a) := by
  intro _ _ h; cases h

theorem voiceStatusRead (a : Addr) : Statement (.voiceStatusRead a) := by
  intro _ _ h; cases h

theorem trackerStatusRead (a : Addr) : Statement (.trackerStatusRead a) := by
  intro _ _ h; cases h

theorem mixStatusRead (a : Addr) : Statement (.mixStatusRead a) := by
  intro _ _ h; cases h

theorem processorRead (a : Addr) : Statement (.processorRead a) := by
  intro _ _ h; cases h

theorem processorReadAccess : Statement .processorReadAccess := by
  intro _ _ h; cases h

theorem tapFetch : Statement .tapFetch := by
  intro _ _ h; cases h

theorem drain : Statement .drain := by
  intro _ _ h; cases h

theorem ringResetWord : Statement .ringResetWord := by
  intro _ _ h; cases h

theorem statusWordWrite : Statement .statusWordWrite := by
  intro _ _ h; cases h

theorem refusalWordWrite : Statement .refusalWordWrite := by
  intro _ _ h; cases h

theorem reportRecordStart : Statement .reportRecordStart := by
  intro _ _ h; cases h

theorem recordWord : Statement .recordWord := by
  intro _ _ h; cases h

theorem producerIndexWrite : Statement .producerIndexWrite := by
  intro _ _ h; cases h

theorem linkCharacterTaken (signal : LinkSignal) : Statement (.linkCharacterTaken signal) := by
  intro _ _ h; cases h

end Sys2Proof.Laws.NoTableWord
end

