-- ==== Sys2Proof/Laws/Voices.lean ====
section
/-! SUPPORT. What each operation on a voice record keeps: the record agrees with its state (R62). -/

namespace Sys2Proof.Machine

/-! ### Glide and entry -/

/-- A glide step moves the current shift and the ratio alone (R70). -/
theorem glideStep_frame (g : Nat) (r : VoiceRecord) :
    glideStep g r = { r with current := (glideStep g r).current, ratio := (glideStep g r).ratio } := by
  unfold glideStep
  split
  · rfl
  · split
    · rfl
    · generalize ratioOf _ = q
      generalize glideToward _ _ _ = c
      rfl

/-- A record's agreement with its state reads its state, enable, positions, fade and pending flag. -/
theorem consistent_congr {r x : VoiceRecord} (h : r.consistent) (hs : x.state = r.state)
    (he : x.enable = r.enable) (hp : x.p = r.p) (hx : x.xfade = r.xfade) (hf : x.fade = r.fade)
    (hl : x.splicePending = r.splicePending) : x.consistent := by
  unfold VoiceRecord.consistent at h ⊢
  rw [hs, he, hp, hx, hf, hl]
  exact h

theorem glideStep_consistent {r : VoiceRecord} (h : r.consistent) (g : Nat) :
    (glideStep g r).consistent := by
  have hf := glideStep_frame g r
  exact consistent_congr h (by rw [hf]) (by rw [hf]) (by rw [hf]) (by rw [hf]) (by rw [hf])
    (by rw [hf])

theorem entryTest_consistent {r : VoiceRecord} (h : r.consistent) (s : State) :
    (entryTest s r).consistent := by
  unfold entryTest
  split
  · exact h
  · split
    · rename_i hp
      have hs : r.state = .parked := by simp only [entryPasses, Bool.and_eq_true, decide_eq_true_eq] at hp; exact hp.1.1
      have : r.enable = true := by unfold VoiceRecord.consistent at h; rw [hs] at h; exact h.1
      unfold VoiceRecord.consistent enterVoice
      exact ⟨this, by simp⟩
    · exact h

/-! ### Claims (R65 to R69) -/

theorem takeUpdate_consistent {r : VoiceRecord} (h : r.consistent) (s : State) (g : Nat)
    (t : Target) : (takeUpdate s g t r).consistent := by
  have hb : ∀ c u, ({ r with targetChanged := c, target := u } : VoiceRecord).consistent :=
    fun c u => consistent_congr h rfl rfl rfl rfl rfl rfl
  unfold takeUpdate
  dsimp only
  split
  · exact hb _ _
  · exact entryTest_consistent (hb _ _) s
  · exact glideStep_consistent (hb _ _) g
  · exact glideStep_consistent (hb _ _) g
  · rename_i hs
    split
    · rename_i he
      refine glideStep_consistent ?_ g
      unfold VoiceRecord.consistent at h ⊢
      rw [hs] at h
      exact ⟨he, h⟩
    · exact glideStep_consistent (hb _ _) g

theorem takeWithdrawal_consistent {r : VoiceRecord} (h : r.consistent) :
    (takeWithdrawal r).consistent := by
  unfold takeWithdrawal
  unfold VoiceRecord.consistent at h
  split <;> rename_i hs <;> rw [hs] at h <;> unfold VoiceRecord.consistent dropTarget <;>
    simp only [hs] <;> first | exact h | exact h.2

theorem takeShift_consistent {r : VoiceRecord} (h : r.consistent) (g : Nat) (x : Int) :
    (takeShift g x r).consistent := by
  have hb : ∀ u, ({ r with target := u } : VoiceRecord).consistent :=
    fun u => consistent_congr h rfl rfl rfl rfl rfl rfl
  unfold takeShift
  split
  · exact h
  · split
    · exact hb _
    · exact hb _
    · exact glideStep_consistent (hb _) g
    · exact glideStep_consistent (hb _) g
    · exact glideStep_consistent (hb _) g

theorem takeEnable_consistent {r : VoiceRecord} (h : r.consistent) (s : State) (g : Nat)
    (t : Option Target) : (takeEnable s g t r).consistent := by
  have hb : ({ r with
      enable := true, state := if r.state = .silent then .parked else r.state } : VoiceRecord).consistent := by
    unfold VoiceRecord.consistent at h ⊢
    rcases hs : r.state <;> rw [hs] at h <;> simp_all
  unfold takeEnable
  dsimp only
  split
  · exact takeUpdate_consistent hb s g _
  · exact takeWithdrawal_consistent hb

theorem takeDisable_consistent {r : VoiceRecord} (h : r.consistent) : (takeDisable r).consistent := by
  unfold takeDisable
  unfold VoiceRecord.consistent at h
  split <;> rename_i hs <;> rw [hs] at h <;> unfold VoiceRecord.consistent <;> simp only [hs] <;>
    first | exact h | exact h.2 | exact ⟨trivial, h.2⟩

/-- A claim keeps a record in agreement with its state. -/
theorem claimOn_consistent {r : VoiceRecord} (h : r.consistent) (s : State) (g : Nat) (c : Claim) :
    (claimOn s g c r).consistent := by
  cases c with
  | enable t => exact takeEnable_consistent h s g t
  | disable => exact takeDisable_consistent h
  | update t => exact takeUpdate_consistent h s g t
  | withdraw => exact takeWithdrawal_consistent h
  | shift x => exact takeShift_consistent h g x

/-! ### Parking and commands (R75 to R79) -/

theorem parkRecord_consistent {r : VoiceRecord} (h : r.consistent) : (parkRecord r).consistent := by
  unfold parkRecord
  have h' := h
  unfold VoiceRecord.consistent at h
  split <;> rename_i hs <;> rw [hs] at h
  · exact h'
  · exact h'
  · exact ⟨h.1, rfl, rfl, rfl, rfl⟩
  · exact ⟨h.1, rfl, rfl, rfl, rfl⟩
  · by_cases he : r.enable = true
    · simp only [he, if_true]; exact ⟨he, rfl, rfl, rfl, rfl⟩
    · simp only [he]; exact ⟨by simpa [dropPositions] using he, rfl, rfl, rfl, rfl⟩

theorem startRecord_consistent (enabled clear : Bool) (r : VoiceRecord) :
    (startRecord enabled clear r).consistent := by
  cases enabled
  · exact ⟨rfl, rfl, rfl, rfl, rfl⟩
  · exact ⟨rfl, rfl, rfl, rfl, rfl⟩

theorem fitFade_consistent {r : VoiceRecord} (h : r.consistent) (xf : Nat) :
    (fitFade xf r).consistent := by
  unfold fitFade
  have h' := h
  unfold VoiceRecord.consistent at h
  split <;> rename_i hs <;> rw [hs] at h
  · exact h'
  · exact h'
  · unfold VoiceRecord.consistent; simp only [hs]; exact h
  · unfold VoiceRecord.consistent; split <;> rename_i h2 <;> dsimp only at h2 <;>
      (split at h2 <;> first | exact h | cases h2)
  · unfold VoiceRecord.consistent; simp only [hs]; exact h

/-! ### Reads (R84, R85, R89, R90 to R94) -/

/-- The hard check keeps a read position present, and the record in agreement with its state. -/
theorem hardCheck_consistent {r : VoiceRecord} (h : r.consistent) (hp : r.p ≠ none) (s : State) :
    (hardCheck s r).1.consistent ∧ (hardCheck s r).1.p ≠ none := by
  have key : ∀ x : VoiceRecord, x.state = r.state → x.enable = r.enable → x.p ≠ none →
      x.consistent := by
    intro x hs he hx
    unfold VoiceRecord.consistent at h ⊢
    rw [hs]
    rcases hst : r.state <;> rw [hst] at h
    · exact absurd h.2.1 hp
    · exact absurd h.2.1 hp
    · exact ⟨he ▸ h.1, hx⟩
    · exact ⟨he ▸ h.1, hx⟩
    · exact hx
  unfold hardCheck hardCheckSteady
  split
  · rename_i hn; exact absurd hn hp
  · split
    · exact ⟨h, hp⟩
    · exact ⟨key _ rfl rfl (by simp), by simp⟩
  · split
    · split
      · exact ⟨h, hp⟩
      · exact ⟨key _ rfl rfl hp, hp⟩
    · dsimp only
      split
      · exact ⟨key _ rfl rfl (by simp), by simp⟩
      · exact ⟨key _ rfl rfl (by simp), by simp⟩

theorem softCheck_frame (s : State) (period : Option Nat) (ended : Bool) (r : VoiceRecord) :
    softCheck s period ended r = { r with
      xfade := (softCheck s period ended r).xfade
      splicePending := (softCheck s period ended r).splicePending } := by
  unfold softCheck
  split
  · rfl
  · split <;> rfl
  · split
    · unfold pendingSplice startSplice; dsimp only; split
      · rfl
      · split <;> rfl
    · unfold softCheckSteady startSplice; split <;> rfl

/-- A stream read's moves keep a record with a position in agreement with its state. -/
theorem streamMoves_consistent {r : VoiceRecord} (h : r.consistent) (hp : r.p ≠ none) (s : State)
    (period : Option Nat) : (streamMoves s period r).consistent := by
  have ha : (advancePositions r).state = r.state ∧ (advancePositions r).enable = r.enable ∧
      (advancePositions r).p ≠ none := by
    unfold advancePositions
    dsimp only
    split
    · exact ⟨rfl, rfl, by simpa using hp⟩
    · split
      · exact ⟨rfl, rfl, by simpa using hp⟩
      · exact ⟨rfl, rfl, by simp⟩
  have hf : ∀ xf, (fadeStep xf (advancePositions r)).consistent := by
    intro xf
    generalize advancePositions r = x at ha
    obtain ⟨hs, he, hx⟩ := ha
    unfold VoiceRecord.consistent at h
    unfold fadeStep
    rcases hst : x.state <;> rw [← hs, hst] at h <;> dsimp only
    · exact absurd h.2.1 hp
    · exact absurd h.2.1 hp
    · unfold VoiceRecord.consistent
      split <;> rename_i h2 <;> dsimp only at h2 <;>
        (split at h2 <;> first | exact ⟨he ▸ h.1, hx⟩ | cases h2)
    · unfold VoiceRecord.consistent; rw [hst]; exact ⟨he ▸ h.1, hx⟩
    · split
      · by_cases hen : x.enable = true
        · simp only [hen, if_true]; exact ⟨hen, rfl, rfl, rfl, rfl⟩
        · simp only [hen]; exact ⟨by simpa [dropPositions] using hen, rfl, rfl, rfl, rfl⟩
      · unfold VoiceRecord.consistent; dsimp only; exact hx
  unfold streamMoves
  have hfc := hf s.setup.active.general.xf.toNat
  generalize fadeStep s.setup.active.general.xf.toNat (advancePositions r) = y at hfc
  by_cases hy : y.p = none
  · have : softCheck s period (endsCrossfade r) y = y := by
      unfold softCheck; rw [hy]
    rw [this]; exact hfc
  · have hfr := softCheck_frame s period (endsCrossfade r) y
    generalize softCheck s period (endsCrossfade r) y = z at hfr
    unfold VoiceRecord.consistent at hfc ⊢
    rw [hfr]
    dsimp only
    rcases hst : y.state <;> rw [hst] at hfc
    · exact absurd hfc.2.1 hy
    · exact absurd hfc.2.1 hy
    · exact hfc
    · exact hfc
    · exact hfc

/-- A stream read's fade keeps the fade level in its range 0 to XF (R61, R64). -/
theorem fadeStep_fade_le {xf : Nat} {r : VoiceRecord} (h : r.fade ≤ xf) :
    (fadeStep xf r).fade ≤ xf := by
  unfold fadeStep
  split
  · exact h
  · exact h
  · exact h
  · exact Nat.min_le_left _ _
  · split
    · exact Nat.zero_le _
    · exact le_trans (Nat.sub_le _ _) h

end Sys2Proof.Machine
end

