-- ==== Sys2Proof/Tests/Slice0.lean ====
section
/-! SUPPORT. Tests: the checks of WellFormed on ill-formed commands, the spec's worked examples, and for
every obligation with hypotheses a state and operands that meet them. -/

-- Each test waits for the kernel: one after another, so that few threads wait at once.
set_option Elab.async false

namespace Sys2Proof.Tests

open Sys2Proof Sys2Proof.Machine

/-! ### Small states -/

/-- The windows of section 8.7 under a default setup: INPUT 131,072 (8,192 words, S24R), TAP 262,144,
REPORT 270,336 with N = 64, PROTECT 65,536. -/
def rigSetup : Setup :=
  { Setup.default with
    windows := #v[⟨131072, 8192, 1, 1, 0⟩, ⟨262144, 256, 2, 0, 0⟩, ⟨270336, 1024, 3, 0, 64⟩,
      ⟨65536, 65536, 4, 0, 0⟩, WindowEntry.off, WindowEntry.off, WindowEntry.off] }

/-- The part after power-on with the rig's shadow setup, CWB = 3. -/
def idleRig : State :=
  { State.reset with
    map := WindowMap.powerOn 3
    setup := ⟨rigSetup, Setup.default, none, none, .idle⟩ }

/-- The rig at work in an engine state, its receiver ASLEEP, its ring written. -/
def rig (e : Engine) : State :=
  { State.reset with
    map := ⟨WindowEntry.control 3, rigSetup.windows⟩
    setup := ⟨rigSetup, rigSetup, none, none, e⟩
    crx := { State.reset.crx with state := .asleep, station := 7 }
    rpt := { State.reset.rpt with ringWritten := true } }

/-- A state with a processor cycle held. -/
def holding (c : Cycle) (s : State) : State := { s with bus := { s.bus with cycle := some c } }

/-- A state with an access in progress. -/
def busy (k : AccessKind) (s : State) : State := { s with bus := { s.bus with port := some ⟨k, true⟩ } }

/-- A state with writes in the post queue. -/
def posted (q : List QueueEntry) (s : State) : State := { s with bus := { s.bus with queue := q } }

/-- A state with a command in progress. -/
def commanded (c : Command) (s : State) : State := { s with setup := { s.setup with command := some c } }

/-- A state with a status word being written. -/
def ending (s : State) : State :=
  { s with setup := { s.setup with status := some ⟨40, 1, .done, .none, 0⟩ } }

/-- Capture synchronised as at the beginning of section 1.6. -/
def synced : State := { rig .running with cap := ⟨some 100, 2302, 2302, 2302⟩ }

/-- Voice 0 SOUNDING and steady as in section 8.7, the words of its fetches queued. -/
def sounding : State :=
  posted [⟨137304, 4800⟩, ⟨137305, 5200⟩]
    { rig .running with
      cap := ⟨some 0, 40001, 40001, 40001⟩
      vce := ⟨#v[⟨.sounding, true, 128, some ((39000 : BitVec 32) ++ (16384 : BitVec 16)), none, false,
        some ⟨60, 0⟩, 0, 65536, false, false⟩, VoiceRecord.powerOn, VoiceRecord.powerOn,
        VoiceRecord.powerOn], false⟩ }

/-- A mix stream read in flight, its last fetch still to come. -/
def mixRead : TapRead :=
  ⟨262152, 8, 40001, none, [],
    some ⟨0, voiceOf sounding 0, [4800], [137305]⟩, [], 0, []⟩

/-- A cue that stands in a list. -/
def listed (n : Nat) (s : State) : State :=
  { s with csc := ⟨List.replicate n ⟨.hold, 1000⟩, []⟩ }

/-- What a step leaves, where it leaves a next state. -/
def leaves {α : Type} (o : Host.Outcome State Fault Refusal) (f : State → α) : Option α :=
  match o with
  | .next t => some (f t)
  | .fault _ => none
  | .refused _ => none

/-! ### WellFormed refuses -/

theorem test_chord_root_above_11_ill_formed :
    (Instr.chord 7 .now 12 0 0).wellFormed = false := by decide
theorem test_chord_shape_16_ill_formed :
    (Instr.chord 7 .now 0 16 0).wellFormed = false := by decide
theorem test_chord_bad_crc_ill_formed : (Instr.chord 7 .now 0 0 1).wellFormed = false := by decide
theorem test_key_root_above_11_ill_formed :
    (Instr.key 7 .now 12 0 0).wellFormed = false := by decide
theorem test_key_scale_8_ill_formed : (Instr.key 7 .now 0 8 0).wellFormed = false := by decide
theorem test_key_bad_crc_ill_formed : (Instr.key 7 .now 0 0 1).wellFormed = false := by decide
theorem test_mask_0_or_16_ill_formed :
    (Instr.voiceOn 7 .now 0 0).wellFormed = false ∧ (Instr.voiceOff 7 .now 16 0).wellFormed = false := by
  decide
theorem test_mask_bad_crc_ill_formed :
    (Instr.voiceOn 7 .now 1 1).wellFormed = false ∧ (Instr.voiceOff 7 .now 1 1).wellFormed = false := by
  decide
theorem test_mode_of_voice_4_ill_formed :
    (Instr.voiceMode 7 .now 4 0 0 0).wellFormed = false := by decide
theorem test_mode_code_4_ill_formed : (Instr.voiceMode 7 .now 0 4 0 0).wellFormed = false := by decide
theorem test_mode_parameter_out_of_range_ill_formed :
    (Instr.voiceMode 7 .now 0 0 8 0).wellFormed = false ∧
    (Instr.voiceMode 7 .now 0 1 5 0).wellFormed = false ∧
    (Instr.voiceMode 7 .now 0 2 25 0).wellFormed = false ∧
    (Instr.voiceMode 7 .now 0 3 128 0).wellFormed = false := by decide
theorem test_mode_bad_crc_ill_formed : (Instr.voiceMode 7 .now 0 0 0 1).wellFormed = false := by decide
theorem test_empty_payload_bad_crc_ill_formed :
    (Instr.hold 7 .now 1).wellFormed = false ∧ (Instr.release 7 .now 1).wellFormed = false ∧
    (Instr.timebase 7 .now 0 1).wellFormed = false ∧ (Instr.clear 7 .now 1).wellFormed = false := by
  decide
theorem test_timebase_and_clear_not_now_ill_formed :
    (Instr.timebase 7 .onset 0 0).wellFormed = false ∧
    (Instr.clear 7 (.atStamp 5) 0).wellFormed = false := by decide
theorem test_character_samples_ill_formed :
    (Instr.linkCharacterTaken (.samples 0)).wellFormed = false ∧
    (Instr.linkCharacterTaken (.samples 0x401)).wellFormed = false ∧
    (Instr.linkBadChar 0x400).wellFormed = false ∧ (Instr.linkBadChar 1).wellFormed = false := by decide
theorem test_sound_cues_well_formed :
    (Instr.chord 7 .now 11 255 0).wellFormed = true ∧ (Instr.key 7 .onset 11 7 0).wellFormed = true ∧
    (Instr.voiceMode 7 .now 3 3 127 0).wellFormed = true ∧
    (Instr.linkCharacterTaken (.samples 0x400)).wellFormed = true ∧
    (Instr.linkCharacterTaken .fall).wellFormed = true ∧ (Instr.linkBadChar 0).wellFormed = true := by
  decide

/-! ### The spec's worked figures -/

/-- The check value of R121. -/
theorem test_crc_check_value :
    crcOf [0x31, 0x32, 0x33, 0x34, 0x35, 0x36, 0x37, 0x38, 0x39] = 0x29B1 := by decide +kernel
/-- The ratios of 00_scope section 5.4 and section 4.10. -/
theorem test_ratios :
    ratioOf 0 = 65536 ∧ ratioOf 700 = 98193 ∧ ratioOf (-1200) = 32768 ∧ ratioOf (-400) = 52016 ∧
    ratioOf (-500) = 49097 ∧ ratioOf 2400 = 262144 ∧ ratioOf (-2400) = 16384 := by decide +kernel
/-- The pitch values of 00_scope section 5.3 and sections 2.3 and 2.9. -/
theorem test_pitch_values :
    pitchValue 48000 3840 0 = 5535 ∧ pitchValue 48000 1923 0 = 6732 ∧
    pitchValue 48000 2061 0 = 6612 ∧ pitchValue 48000 1954 0 = 6705 := by decide +kernel
/-- The refinement of section 2.3: lag 120 with three differences around it. -/
theorem test_refinement :
    refinePeriod [1500000000, 450000000, 1000000000] 119 1 = 1923 := by decide
/-- Headroom at the limits of R20. -/
theorem test_headroom :
    headroomOf 0 = 23 ∧ headroomOf 8388608 = 0 ∧ headroomOf 4194304 = 0 ∧ headroomOf 4194303 = 1 ∧
    headroomOf 1024 = 12 ∧ headroomOf 1 = 22 := by decide +kernel
/-- A period in the history gives the splice period, an exact half rounded up (R26, section 2.9). -/
theorem test_splice_period :
    { Tracker.powerOn with history := [⟨0, false, true, none, none, 0, 15⟩,
      ⟨0, true, false, some 1961, some 6698, 224, 4⟩] }.splicePeriod = some 123 := by decide
/-- The fold of R46's example: 62 fails in 64 to 70, and folds to 62 from 50 in 57 to 69. -/
theorem test_range_fold : rangeFold 64 70 62 = none ∧ rangeFold 57 69 50 = some 62 := by decide
/-- The moves of section 3.9: the next tone of B minor above 71 is 74, of D major above 66 is 67. -/
theorem test_next_notes :
    nextAbove 0x089 11 71 = 74 ∧ nextAbove 0xAB5 2 66 = 67 ∧ nearestTone 0x089 11 69 = 71 := by decide
/-- The forward distances of 00_scope section 5.6. -/
theorem test_due_stamps :
    distance 4294967000 200 = 496 ∧ isDue 4294967000 200 = false ∧ isDue 100 90 = true ∧
    lateness 100 90 = 10 := by decide
/-- The output of section 8.7 step 9: 4,800 and 5,200 at a quarter. -/
theorem test_output_value :
    outputValue .s24r 128 128 (voiceOf sounding 0) [4800, 5200] = 4900 := by decide +kernel
/-- Formats (R103). -/
theorem test_formats :
    sampleOf .s16r 0x8000 = -32768 ∧ sampleOf .s24l 0x123456FF = 0x123456 ∧
    sampleWord .s16r (saturateFormat .s16r 36125) = 0x7FFF ∧ sampleWord .s24l (-1) = 0xFFFFFF00 := by
  decide
/-- The rig's setup passes validation; the default one fails with ROLE_COUNT (R158). -/
theorem test_validation :
    validate (WindowEntry.control 3) rigSetup = none ∧
    validate (WindowEntry.control 3) Setup.default = some ⟨.roleCount, 0⟩ ∧
    validate (WindowEntry.control 3)
      { rigSetup with general := { rigSetup.general with keyRoot := 12 } } = some ⟨.table, 255⟩ ∧
    validate (WindowEntry.control 2) rigSetup = some ⟨.overlap, 1⟩ := by decide +kernel
/-- The masks of the default setup name LINK_BREAK, CAPTURE_RESTART and HARD_SPLICE (R157). -/
theorem test_default_masks :
    maskHas General.default.urgentMask .linkBreak = true ∧
    maskHas General.default.urgentMask .captureRestart = true ∧
    maskHas General.default.urgentMask .hardSplice = true ∧
    maskHas General.default.urgentMask .clip = false := by decide

/-- The output values of section 6.9. -/
theorem test_mix_output_values :
    outputValue .s16r 192 128 { VoiceRecord.powerOn with
      state := .entering, fade := 64, p := some ((48700 : BitVec 32) ++ (32768 : BitVec 16)) }
      [20000, 21000] = 15375 ∧
    outputValue .s16r 128 128 { VoiceRecord.powerOn with
      state := .sounding, fade := 128, p := some ((49400 : BitVec 32) ++ (0 : BitVec 16))
      xfade := some ⟨(48600 : BitVec 32) ++ (0 : BitVec 16), 32, 128⟩ }
      [9000, 9500, 4000, 4200] = 7750 := by decide +kernel

/-- A voice of the worked sequences: SOUNDING at full fade, with its positions in whole samples. -/
def grain (c : Word) (ratio : Nat) (p : Word) (x : Option (Word × Nat)) : State × VoiceRecord :=
  ({ rig .running with cap := ⟨some 0, c, 65536, c⟩ },
    { VoiceRecord.powerOn with
      state := .sounding, enable := true, fade := 128, p := some (p ++ (0 : BitVec 16)), ratio := ratio
      xfade := x.map (fun q => ⟨q.1 ++ (0 : BitVec 16), q.2, 128⟩) })

/-- Section 5.10, row 3: the low splice with m = 4. -/
theorem test_low_splice :
    let g := grain 10002 131072 9601 none
    let r := streamMoves g.1 (some 200) g.2
    r.p = some ((9603 : BitVec 32) ++ (0 : BitVec 16)) ∧
    r.xfade = some ⟨(8803 : BitVec 32) ++ (0 : BitVec 16), 1, 128⟩ := by decide +kernel
/-- Section 5.10, row 11: both grains outside the hard window. -/
theorem test_hard_splices :
    let g := grain 18852 131072 10503 (some (9703, 51))
    hardCheck g.1 g.2 = ({ g.2 with p := some ((17852 : BitVec 32) ++ (0 : BitVec 16)), xfade := none },
      [⟨1, 8349⟩, ⟨3, 9149⟩]) := by decide +kernel
/-- Section 5.11, row G: the pending high splice with m = 5. -/
theorem test_pending_splice :
    let g := grain 21152 32768 18463 (some (19263, 128))
    let r := streamMoves g.1 (some 200) { g.2 with splicePending := true }
    r.p = some ((19263 : BitVec 32) ++ (32768 : BitVec 16)) ∧
    r.xfade = some ⟨(20263 : BitVec 32) ++ (32768 : BitVec 16), 1, 128⟩ ∧
    r.splicePending = false := by decide +kernel

/-- The planner of section 3.9: a sung note with its pitch value, and plans with their frozen notes. -/
def choir (sung pitch : Nat) (chord : Chord) (hold : Bool) (notes : List (Option Nat)) : State :=
  let voice (range : BitVec 8 × BitVec 8) (avoid correct : Bool) : VoiceSetup :=
    { VoiceSetup.default 0 with
      lowNote := range.1, highNote := range.2, avoid := avoid, correct := correct }
  let plan (m : Mode) (x f : Int) (i : Nat) : VoicePlan :=
    ⟨true, false, ⟨m, x, f⟩, none, notes.getD i none, none, none⟩
  let s := rig .running
  { s with
    setup := { s.setup with active := { rigSetup with
      voices := #v[voice (55, 79) true true, voice (55, 79) true false, voice (55, 79) false false,
        voice (57, 69) true false] } }
    trk := { s.trk with sung := some sung, history := [⟨0, true, false, some 2061, some pitch, 236, 3⟩] }
    pln := ⟨⟨2, 0⟩, some chord, hold, none, none,
      #v[plan .scale 2 0 0, plan .chord 0 (-2) 1, plan .fixed (-4) 0 2, plan .pedal 50 0 3]⟩ }

/-- The targets a re-plan leaves. -/
def planned (s : State) : List (Option Nat × Option Int) :=
  (replanAll s).pln.voices.toList.map (fun p => (p.note, p.shift))

/-- Section 3.9, steps A and D: D major under B minor at F#4, then under G major at B4. -/
theorem test_planned_targets :
    planned (choir 66 6612 ⟨11, 1⟩ false []) =
      [(some 69, some 288), (some 71, some 500), (some 62, some (-400)), (some 62, some (-400))] ∧
    planned (choir 71 7104 ⟨7, 0⟩ false []) =
      [(some 74, some 296), (some 79, some 800), (some 67, some (-400)), (some 62, some (-900))] := by
  decide +kernel
/-- Section 3.9, step C: an onset at B4 under hold, from the frozen targets 73, 71, 65 and 62. -/
theorem test_planned_targets_under_hold :
    planned (choir 71 7104 ⟨11, 1⟩ true [some 73, some 71, some 65, some 62]) =
      [(some 73, some 196), (some 74, some 300), (some 65, some (-600)), (some 62, some (-900))] := by
  decide +kernel
/-- Section 2.9, records 3 and 4: outside the band once, then an onset to 67. -/
theorem test_note_decisions :
    let t : Tracker := { Tracker.powerOn with sung := some 66 }
    let r (pitch : Nat) : PitchRecord := ⟨0, true, false, some 1954, some pitch, 221, 4⟩
    t.noteDecision General.default (r 6705) = ({ t with outside := 1 }, .kept) ∧
    { t with outside := 1 }.noteDecision General.default (r 6698) =
      ({ t with sung := some 67 }, .onset (some 66) 67) := by decide +kernel

/-! ### Steps -/

/-- Section 1.6, step 1: in step. -/
theorem test_capture_in_step :
    leaves (exec (.capture 133474 5) synced) (fun t => (t.cap, t.bus.queue)) =
      some (⟨some 100, 2303, 2303, 2303⟩, [⟨133474, 5⟩]) := by decide +kernel
/-- Section 1.6, step 2: a gap of 3 reaches the hop boundary at 2,304, stamped 2,304. -/
theorem test_capture_small_gap :
    leaves (exec (.capture 133478 5) { synced with cap := ⟨some 100, 2303, 2303, 2303⟩ })
      (fun t => (t.cap, t.trk.inFlight.map (·.stamp), t.rpt.hopCounter, t.rpt.queue)) =
      some (⟨some 100, 2307, 2307, 2307⟩, some 2304, 1, [⟨.captureGap, 0, none, 3, 2406, 2307⟩]) := by
  decide +kernel
/-- R7's example: from C = 2,303 a gap of 256 reaches two boundaries; the first hop starts the analysis,
stamped 2,304, the second is skipped (R16). -/
theorem test_capture_two_hops :
    leaves (exec (.capture 133731 5) { synced with cap := ⟨some 100, 2303, 2303, 2303⟩ })
      (fun t => (t.cap, t.trk.inFlight.map (·.stamp), t.trk.skipped, t.rpt.hopCounter)) =
      some (⟨some 100, 2560, 2560, 2560⟩, some 2304, true, 2) ∧
    (placePositions [0] 2560 { synced with cap := ⟨some 100, 2559, 2559, 2303⟩ }).trk.inFlight.map
      (·.stamp) = some 2560 := by decide +kernel
/-- Section 1.6, step 5: a gap of 400 restarts capture. -/
theorem test_capture_restart :
    leaves (exec (.capture 133880 5) { synced with cap := ⟨some 100, 2308, 2308, 96000⟩ })
      (fun t => (t.cap, t.trk.generation, t.rpt.queue)) =
      some (⟨some 2808, 1, 1, 96401⟩, 1, [⟨.captureRestart, 1, none, 400, 2808, 96401⟩]) := by
  decide +kernel
/-- Section 1.6, step 7: a rewrite. -/
theorem test_capture_backward :
    leaves (exec (.capture 133880 5) { synced with cap := ⟨some 2808, 2, 2, 96402⟩ })
      (fun t => (t.cap, t.rpt.queue)) =
      some (⟨some 2808, 2, 2, 96402⟩, [⟨.captureBackward, 0, none, 133880, 2810, 96402⟩]) := by
  decide +kernel
/-- START is taken (R162). -/
theorem test_start_taken :
    leaves (exec (.start 41 0) idleRig) (fun t => t.setup.command) =
      some (some ⟨1, 41, true, false⟩) := by decide +kernel
/-- START completes into RUNNING, and its ring-reset words are requested (R163, R167). -/
theorem test_start_completes :
    leaves (exec .commandCompletion (commanded ⟨1, 41, true, false⟩ idleRig))
      (fun t => (t.setup.engine, t.crx.state, maPins t, t.bus.requests.length)) =
      some (.running, .asleep, some 270336, 2) := by decide +kernel
/-- A START on the default setup is REJECTED with ROLE_COUNT; a STOP in IDLE is ILLEGAL (R164, R166). -/
theorem test_commands_without_effects :
    leaves (exec (.start 41 0) State.reset) (fun t => t.bus.requests.map (·.data) ++
      (mdPins t).toList) = some [0x00002229] ∧
    leaves (exec (.stop 42 0) State.reset) (fun t => t.setup.status) =
      some (some ⟨42, 3, .illegal, .none, 0⟩) := by decide +kernel
/-- The mix stream read of section 8.7: served from the queue, it returns 4,900 and moves voice 0. -/
theorem test_mix_stream_read :
    leaves (exec (.mixStreamRead 262152) sounding) (fun t => (t.pd, (voiceOf t 0).p)) =
      some (some 4900, some ((39001 : BitVec 32) ++ (16384 : BitVec 16))) := by decide +kernel
/-- A peek read returns the same sample and moves nothing. -/
theorem test_voice_peek_read :
    leaves (exec (.voicePeekRead 262148) sounding) (fun t => (t.pd, t.vce)) =
      some (some 4900, sounding.vce) := by decide +kernel
/-- A KEY message to the station sets the key; to another station nothing (R37, R119). -/
theorem test_key_cue :
    leaves (exec (.key 7 .now 7 1 0) (rig .running)) (fun t => (t.pln.key, t.crx.state)) =
      some (⟨7, 1⟩, .asleep) ∧
    leaves (exec (.key 8 .now 7 1 0) (rig .running)) (fun t => (t.pln.key, t.rpt.queue)) =
      some (⟨0, 0⟩, []) := by decide +kernel
/-- A payload out of range is reported with its character and position (R126, R136). -/
theorem test_bad_payload :
    leaves (exec (.key 7 (.atStamp 9) 12 1 0) (rig .running)) (fun t => t.rpt.queue) =
      some [⟨.linkBadCue, 5, none, 12, 8, 0⟩] := by decide +kernel
/-- A drain leaves the oldest entry in memory, and the next drain is granted (R151). -/
theorem test_drain :
    leaves (exec .drain (busy (.drain ⟨5, 9⟩) (posted [⟨5, 9⟩, ⟨6, 8⟩] State.reset)))
      (fun t => (t.mem, t.bus.queue, maPins t)) = some ([(5, 9)], [⟨6, 8⟩], some 6) := by decide +kernel
/-- Section 10.5: with p = 15, c = 0 of 16 the value 6 lies forward of c, 20 does not exist (R175). -/
theorem test_consumer_index :
    ringDistance 16 0 6 ≤ ringDistance 16 0 15 ∧ ¬ (20 < 16) ∧
    ringDistance 16 6 5 = 15 := by decide
/-- Section 8.7, step 10, in small: the producer write of one record completes with an event and two drains
waiting; the next record's first word is granted before them, at slot 1 (R152, R174). -/
theorem test_records_before_drains :
    let s := busy (.partWrite ⟨.producer, 270336, 1⟩) (posted [⟨300002, 13⟩, ⟨300003, 14⟩]
      { rig .running with rpt := { (rig .running).rpt with
          record := some .captureBackward, queue := [⟨.windowFault, 5, none, 196609, 0, 9⟩] } })
    leaves (exec .producerIndexWrite s) (fun t => (maPins t, t.bus.requests.length, t.bus.queue.length,
      t.rpt.record, t.rpt.producer)) = some (some 270356, 3, 2, some .windowFault, 1) ∧
    leaves (exec .producerIndexWrite { s with rpt := { s.rpt with queue := [] } })
      (fun t => (maPins t, t.rpt.record)) = some (some 300002, none) := by decide +kernel
/-- RESET low and high again with CWB = 3 places the control window at 196,608 (R140). -/
theorem test_reset_rise :
    leaves (exec (.resetRise 3 7) { State.reset with resetLow := true })
      (fun t => (t.map.entry0.base, t.crx.station, t.resetLow)) = some (196608, 7, false) := by
  decide +kernel

/-- A voice ENTERING at XF, switched off and on between two reads, is SOUNDING at XF after the next
(R61, R62). -/
theorem test_fade_held_to_xf :
    fadeStep 128 { VoiceRecord.powerOn with state := .entering, fade := 128 } =
      { VoiceRecord.powerOn with state := .sounding, fade := 128 } ∧
    (fadeStep 128 { VoiceRecord.powerOn with state := .entering, fade := 127 }).fade = 128 ∧
    (fadeStep 128 { VoiceRecord.powerOn with state := .leaving, fade := 1 }).state = .silent := by decide

/-- One step, then another. -/
def andThen (o : Host.Outcome State Fault Refusal) (i : Instr) : Host.Outcome State Fault Refusal :=
  match o with
  | .next t => exec i t
  | .fault f => .fault f
  | .refused r => .refused r

/-- A break whose fall came before an APPLY with another divisor keeps the rate its fall found (R117). -/
theorem test_break_keeps_its_rate :
    let s := commanded ⟨2, 41, false, false⟩ { rig .running with setup := { (rig .running).setup with
      shadow := { rigSetup with general := { rigSetup.general with divisor := 40 } } } }
    leaves (andThen (andThen (exec (.linkCharacterTaken .fall) s) .commandCompletion) .linkBreak)
      (fun t => (t.crx.state, t.crx.divisor, t.setup.active.general.divisor)) =
      some (.inBreak, 26, 40) := by decide +kernel
/-- A line low as START leaves OFF counts as fallen then: its break is reported (R118). -/
theorem test_start_with_line_low :
    leaves (andThen (andThen (exec (.linkCharacterTaken .fall) (commanded ⟨1, 41, true, false⟩ idleRig))
      .commandCompletion) .linkBreak) (fun t => (t.crx.state, t.crx.lineLow, t.rpt.queue)) =
      some (.inBreak, true, [⟨.linkBreak, 1, none, 0, 0, 0⟩]) := by decide +kernel

/-! ### States and operands that meet the obligations' hypotheses -/

theorem rig_free (e : Engine) : portFree (rig e) := ⟨rfl, rfl⟩
theorem rig_placed (e : Engine) : controlPlaced (rig e) := ⟨3, rfl⟩
theorem rig_listens : listening (rig .running) 7 ∧ listening (rig .running) 255 :=
  ⟨⟨rfl, .inl (by decide)⟩, rfl, .inr (.inr rfl)⟩

/-- Seven queued writes: room for one more. -/
def seven : List QueueEntry := [⟨1, 1⟩, ⟨2, 2⟩, ⟨3, 3⟩, ⟨4, 4⟩, ⟨5, 5⟩, ⟨6, 6⟩, ⟨7, 7⟩]

theorem witness_StepRunsFrontCommand :
    { State.reset with pending := [.drain, .clear 7 .now 0] }.pending = .drain :: [.clear 7 .now 0] ∧
    State.reset.pending = [] := ⟨rfl, rfl⟩
theorem witness_CommandsComplete : (rig .running).bus.cycle = none := rfl
theorem witness_OnlyOverlapFaults :
    exec (.processorRead 0) (holding (.read 1) State.reset) = .fault .processorCycleOverlap := rfl
theorem witness_ExecKeepsPending :
    ∃ t, exec .drain { State.reset with pending := [.breakEnd] } = .next t := ⟨_, rfl⟩

/-- A drain at the front of the queue, with a full post queue and a full cue list. -/
def drainNext : State :=
  { listed 24 (busy (.drain ⟨1, 1⟩) (posted (seven ++ [⟨8, 8⟩]) (rig .running))) with
    pending := [.drain], mem := [(0, 1), (1048575, 1)] }

theorem witness_invariants_stepped :
    Memory.wf drainNext.mem = true ∧ withinCapacity drainNext ∧ controlPlaced drainNext ∧
    portOwned drainNext ∧ ∃ t, step drainNext = .next t := by
  refine ⟨by decide, by unfold withinCapacity Receiver.assembling; decide, ⟨3, rfl⟩, ?_, _, rfl⟩
  intro x hx _
  cases hx
  rfl
theorem witness_VoiceStatesKept :
    voicesConsistent { sounding with pending := [.mixStreamRead 262152] } ∧
    ∃ t, step { sounding with pending := [.mixStreamRead 262152] } = .next t := by
  refine ⟨⟨?_, fun r h => nomatch h⟩, _, rfl⟩
  intro v
  match v with
  | 0 => exact ⟨rfl, fun h => nomatch h⟩
  | 1 => exact ⟨rfl, rfl, rfl, rfl, rfl⟩
  | 2 => exact ⟨rfl, rfl, rfl, rfl, rfl⟩
  | 3 => exact ⟨rfl, rfl, rfl, rfl, rfl⟩
theorem witness_SetupChangesOnlyByCommand :
    ∃ t, exec .commandCompletion (commanded ⟨1, 41, true, false⟩ idleRig) = .next t := ⟨_, rfl⟩
theorem witness_CaptureStillDuringTapRead :
    (holding (.tap mixRead) sounding).bus.cycle = some (.tap mixRead) ∧ Instr.breakEnd ≠ .resetFall ∧
    ∃ t, exec .breakEnd (holding (.tap mixRead) sounding) = .next t := ⟨rfl, by decide, _, rfl⟩
theorem witness_MemoryChangesOnlyAtPort :
    Memory.wf drainNext.mem = true ∧ ∃ t, exec .drain drainNext = .next t := ⟨by decide, _, rfl⟩

theorem witness_ResetFallTakesPowerOnValues :
    (rig .running).resetLow = false ∧ (rig .running).bus.cycle = none ∧
    (holding (.read 9) (rig .running)).bus.cycle = some (.read 9) ∧
    (holding (.tap mixRead) sounding).bus.cycle = some (.tap mixRead) ∧
    (holding (.writeForRoom 9 1) (rig .running)).bus.cycle = some (.writeForRoom 9 1) ∧
    (holding (.writeForCommand 9 1) (rig .running)).bus.cycle = some (.writeForCommand 9 1) :=
  ⟨rfl, rfl, rfl, rfl, rfl, rfl⟩

/-- The part with RESET low. -/
def low : State := { State.reset with resetLow := true }

/-- A state with an access in progress that was begun before a fall of RESET. -/
def outlived (k : AccessKind) (s : State) : State :=
  { s with bus := { s.bus with port := some ⟨k, false⟩ } }

/-- Accesses that a fall of RESET leaves complete for nobody: a drain's word reaches memory, nothing is granted
while RESET is low (R140), and a status word's completion raises no CMD_DONE even after the rise. -/
theorem witness_ResetFallTakesPowerOnValues_outlived :
    heldWriteReady (outlived (.drain ⟨5, 9⟩) low) = false ∧ Memory.wf low.mem = true ∧
    leaves (exec .resetFall (busy (.drain ⟨5, 9⟩) (posted [⟨5, 9⟩] (rig .running))))
      (fun t => (t.bus.port, t.bus.queue)) = some (some ⟨.drain ⟨5, 9⟩, false⟩, []) ∧
    leaves (exec .drain (outlived (.drain ⟨5, 9⟩) low)) (fun t => (t.mem, t.bus.port)) =
      some ([(5, 9)], none) ∧
    leaves (exec .statusWordWrite (outlived (.partWrite ⟨.status, 196609, 7⟩) (ending (rig .running))))
      (fun t => (t.mem, t.rpt.queue, t.setup.status)) =
      some ([(196609, 7)], [], (ending (rig .running)).setup.status) ∧
    [AccessKind.processorRead 9, .tapFetch 9, .partWrite ⟨.ringReset 2, 9, 1⟩,
      .partWrite ⟨.refusal, 9, 1⟩, .partWrite ⟨.record 3, 9, 1⟩, .partWrite ⟨.producer, 9, 1⟩].map
        (fun k => heldWriteReady (outlived k (rig .running))) = List.replicate 6 false := by
  decide +kernel

theorem witness_ResetRisePlacesControlWindow :
    low.resetLow = true ∧ low.bus.cycle = none ∧
    (holding (.readInReset 9) low).bus.cycle = some (.readInReset 9) ∧
    (holding (.writeInReset 9 1) low).bus.cycle = some (.writeInReset 9 1) := ⟨rfl, rfl, rfl, rfl⟩
/-- A cycle begun while RESET is low is held as the read or the write it is (R140). -/
theorem witness_ResetRisePlacesControlWindow_begun :
    (Instr.start 41 0).commandWord? = some 0x2901 ∧
    [Instr.processorRead 9, .mixStreamRead 9, .capture 9 1, .setupWrite 9 1].map
        (fun i => leaves (exec i low) (fun t => t.bus.cycle)) =
      [some (some (.readInReset 9)), some (some (.readInReset 9)), some (some (.writeInReset 9 1)),
        some (some (.writeInReset 9 1))] := by decide +kernel

theorem witness_CommandWithEffectsTaken :
    (Instr.start 41 0).commandWord? = some 0x2901 ∧ (wordCode 0x2901).toNat = 1 ∧
    (Instr.apply 41 0).commandWord? = some 0x2902 ∧ (wordCode 0x2902).toNat = 2 ∧
    (Instr.stop 41 0).commandWord? = some 0x2903 ∧ (wordCode 0x2903).toNat = 3 ∧
    (Instr.unknownCommand 0x2904).commandWord? = some 0x2904 ∧ (wordCode 0x2904).toNat = 4 ∧
    idleRig.setup.engine ≠ .running ∧ (rig .running).setup.engine = .running ∧
    (rig .halted).setup.engine ≠ .idle ∧
    validate idleRig.map.entry0 idleRig.setup.shadow = none ∧
    validate (rig .running).map.entry0 (rig .running).setup.shadow = none := by decide +kernel

/-- The rig with another REPORT entry in its shadow setup. -/
def reshaped (e : WindowEntry) (s : State) : State :=
  { s with setup := { s.setup with shadow := { rigSetup with windows := rigSetup.windows.set 2 e } } }

theorem witness_CommandWithEffectsTaken_ring :
    startTouchesRing idleRig = true ∧ startTouchesRing (reshaped WindowEntry.off idleRig) = false ∧
    startTouchesRing (reshaped WindowEntry.off (rig .halted)) = true ∧
    validate (WindowEntry.control 3) (reshaped WindowEntry.off idleRig).setup.shadow = none ∧
    applyTouchesRing (rig .running) = false ∧
    applyTouchesRing (reshaped ⟨270336, 1024, 3, 0, 128⟩ (rig .running)) = true ∧
    validate (WindowEntry.control 3) (reshaped ⟨270336, 1024, 3, 0, 128⟩ idleRig).setup.shadow = none := by
  decide +kernel
theorem witness_command_ports :
    portFree idleRig ∧ controlPlaced idleRig ∧ setupAtRest idleRig ∧
    portFree (posted seven (rig .running)) ∧ controlPlaced (posted seven (rig .running)) ∧
    hasRoom (posted seven (rig .running)) ∧ setupAtRest (posted seven (rig .running)) ∧
    setupAtRest (rig .halted) :=
  ⟨⟨rfl, rfl⟩, ⟨3, rfl⟩, ⟨rfl, rfl⟩, ⟨rfl, rfl⟩, ⟨3, rfl⟩, by unfold hasRoom; decide, ⟨rfl, rfl⟩,
    ⟨rfl, rfl⟩⟩
theorem witness_CommandWithoutEffects :
    illegalIn 1 (rig .running).setup.engine ∧ illegalIn 2 idleRig.setup.engine ∧
    illegalIn 3 idleRig.setup.engine ∧ illegalIn 4 (rig .halted).setup.engine ∧
    illegalIn (wordCode 0x2900).toNat idleRig.setup.engine ∧
    illegalIn (wordCode 0x29FF).toNat (rig .running).setup.engine ∧
    validate State.reset.map.entry0 State.reset.setup.shadow = some ⟨.roleCount, 0⟩ ∧
    setupAtRest State.reset := by
  refine ⟨?_, ?_, ?_, ?_, ?_, ?_, by decide +kernel, rfl, rfl⟩ <;> (unfold illegalIn; decide)

/-- The rig's setup with one window entry, or the general setup, changed. -/
def windowed (n : Fin 7) (e : WindowEntry) : Setup :=
  { rigSetup with windows := rigSetup.windows.set n e }
def tuned (f : General → General) : Setup := { rigSetup with general := f rigSetup.general }

theorem rig_windowsLegal : ∀ n : Fin 7, windowLegal rigSetup.windows[n] := by
  intro n
  match n with
  | 0 => exact .inr ⟨by decide, by decide, ⟨13, by decide, by decide, by decide⟩, by decide, by decide⟩
  | 1 => exact .inr ⟨by decide, by decide, ⟨8, by decide, by decide, by decide⟩, by decide, by decide⟩
  | 2 => exact .inr ⟨by decide, by decide, ⟨10, by decide, by decide, by decide⟩, by decide, by decide⟩
  | 3 => exact .inr ⟨by decide, by decide, ⟨16, by decide, by decide, by decide⟩, by decide, by decide⟩
  | 4 => exact .inl rfl
  | 5 => exact .inl rfl
  | 6 => exact .inl rfl
theorem rig_rolesLegal : rolesLegal rigSetup := by unfold rolesLegal; decide +kernel
theorem rig_apart : ∀ i j, ¬ entriesOverlap (WindowEntry.control 3) rigSetup i j := by
  intro i j h
  have hi : i < j := h.1
  have hj : j ≤ 7 := h.2.2.1.elim (fun e => by omega) (·.1)
  interval_cases j <;> interval_cases i <;> revert h <;> unfold entriesOverlap <;> decide +kernel
theorem rig_fieldsLegal :
    trackerLegal rigSetup.general ∧ lagLegal rigSetup.general rigSetup.windows[0].size.toNat ∧
    (∀ v : Fin 4, voiceLegal rigSetup.voices[v]) ∧ rigSetup.general.keyRoot.toNat ≤ 11 ∧
    (∀ n : Fin 8, rigSetup.scales[n].getLsbD 0 = true) ∧
    (∀ n : Fin 16, rigSetup.shapes[n] = 0 ∨ rigSetup.shapes[n].getLsbD 0 = true) ∧
    reportLegal rigSetup.general rigSetup.windows[2] := by
  refine ⟨by unfold trackerLegal; decide +kernel, by unfold lagLegal; decide +kernel,
    by unfold voiceLegal; decide +kernel, by decide, by decide +kernel, by decide +kernel,
    ⟨6, by decide, by decide, by decide⟩, by decide, by decide, by decide⟩
/-- Each check of R161 fails at the edge of its range, and its reason and detail are given. -/
theorem test_validation_failures :
    [windowed 1 ⟨262144, 128, 2, 0, 0⟩, windowed 4 ⟨524288, 256, 2, 0, 0⟩,
      windowed 1 ⟨270336, 256, 2, 0, 0⟩, tuned (fun g => { g with sampleRate := 7999 }),
      tuned (fun g => { g with lagLow := 391 }),
      { rigSetup with voices := rigSetup.voices.set 2 { VoiceSetup.default 0 with glide := 2401 } },
      tuned (fun g => { g with keyRoot := 12 }),
      { rigSetup with scales := rigSetup.scales.set 7 0xFFE },
      { rigSetup with shapes := rigSetup.shapes.set 15 2 },
      tuned (fun g => { g with group := 8 }), tuned (fun g => { g with trigger := 64 }),
      windowed 2 ⟨270336, 1024, 3, 0, 63⟩].map (validate (WindowEntry.control 3)) =
      [⟨.badWindow, 2⟩, ⟨.roleCount, 0⟩, ⟨.overlap, 3⟩, ⟨.trackerRange, 0⟩, ⟨.lagRange, 0⟩,
        ⟨.voiceField, 2⟩, ⟨.table, 255⟩, ⟨.table, 7⟩, ⟨.table, 31⟩, ⟨.linkRate, 0⟩,
        ⟨.reportSize, 3⟩, ⟨.reportSize, 3⟩].map some := by decide +kernel
theorem witness_CommandWithoutEffects_checks :
    ¬ windowLegal (windowed 1 ⟨262144, 128, 2, 0, 0⟩).windows[1] ∧
    ¬ rolesLegal (windowed 4 ⟨524288, 256, 2, 0, 0⟩) ∧
    entriesOverlap (WindowEntry.control 3) (windowed 1 ⟨270336, 256, 2, 0, 0⟩) 2 3 ∧
    ¬ trackerLegal (tuned (fun g => { g with sampleRate := 7999 })).general ∧
    ¬ lagLegal (tuned (fun g => { g with lagLow := 391 })).general 8192 ∧
    ¬ voiceLegal { VoiceSetup.default 0 with glide := 2401 } ∧
    ¬ reportLegal (tuned (fun g => { g with trigger := 64 })).general rigSetup.windows[2] := by
  refine ⟨?_, by unfold rolesLegal; decide +kernel, by unfold entriesOverlap; decide +kernel,
    by unfold trackerLegal; decide +kernel, by unfold lagLegal; decide +kernel,
    by unfold voiceLegal; decide +kernel, fun h => absurd h.2.2.2 (by decide +kernel)⟩
  rintro (h | ⟨_, _, ⟨k, hk, _, hs⟩, _⟩)
  · exact absurd h (by decide)
  · have h128 : (128 : Nat) = 2 ^ k := hs
    have : 2 ^ 8 ≤ 2 ^ k := Nat.pow_le_pow_right (by decide) hk
    omega

theorem witness_CommandRefusedAsBusy :
    portFree (ending (rig .running)) ∧ controlPlaced (ending (rig .running)) ∧
    hasRoom (ending (rig .running)) ∧ (ending (rig .running)).setup.command = none ∧
    (ending (rig .running)).setup.status ≠ none ∧ (ending (rig .running)).bus.requests = [] :=
  ⟨⟨rfl, rfl⟩, ⟨3, rfl⟩, by unfold hasRoom; decide, rfl, (fun h => nomatch h), rfl⟩
/-- A second refusal takes the place of the one still requested; the status word stays (R165). -/
theorem test_refusal_replaced :
    let s := ending { rig .running with bus := ⟨[], some ⟨.drain ⟨1, 1⟩, true⟩,
      [⟨.status, 196609, 9⟩, ⟨.refusal, 196610, 8⟩, ⟨.producer, 270336, 7⟩], none⟩ }
    leaves (exec (.stop 42 0) s) (fun t => t.bus.requests) =
      some [⟨.status, 196609, 9⟩, ⟨.refusal, 196610, 0x32A⟩, ⟨.producer, 270336, 7⟩] := by decide +kernel

/-- A command taken, waiting to complete. -/
def asked (code : Byte) (touches : Bool) (s : State) : State := commanded ⟨code, 41, touches, false⟩ s

theorem witness_CompletionWaits :
    canComplete (asked 1 true idleRig) ⟨1, 41, true, false⟩ = true ∧
    canComplete (asked 3 false (holding (.tap mixRead) sounding)) ⟨3, 41, false, false⟩ = false := by
  decide +kernel
theorem witness_StartCompletes :
    (asked 1 true idleRig).setup.command = some ⟨1, 41, true, false⟩ ∧
    canComplete (asked 1 true idleRig) ⟨1, 41, true, false⟩ = true ∧
    leaves (exec .commandCompletion (asked 1 true idleRig)) (fun t => (reportEntry t).isSome) =
      some true ∧
    leaves (exec .commandCompletion (asked 1 true { idleRig with
      setup := { idleRig.setup with shadow := { rigSetup with
        windows := rigSetup.windows.set 2 WindowEntry.off } } }))
      (fun t => (reportEntry t).isSome) = some false := by decide +kernel
theorem witness_StopCompletes :
    (asked 3 false (rig .running)).setup.engine = .running ∧
    canComplete (asked 3 false (rig .running)) ⟨3, 41, false, false⟩ = true ∧
    (asked 3 false (rig .halted)).setup.engine = .halted ∧
    canComplete (asked 3 false (rig .halted)) ⟨3, 41, false, false⟩ = true := by decide +kernel
theorem witness_RestartCompletes :
    (asked 4 false (rig .running)).setup.command = some ⟨4, 41, false, false⟩ ∧
    canComplete (asked 4 false (rig .running)) ⟨4, 41, false, false⟩ = true := by decide +kernel

theorem witness_ApplyCompletes :
    canComplete (asked 2 true (rig .running)) ⟨2, 41, true, false⟩ = true ∧
    (rig .running).setup.engine ≠ .idle ∧
    ringChange rigSetup.windows (rig .running).setup.shadow.windows = .kept ∧
    ringChange rigSetup.windows (reshaped ⟨270336, 1024, 3, 0, 128⟩ (rig .halted)).setup.shadow.windows =
      .fresh ∧
    ringChange rigSetup.windows (reshaped WindowEntry.off (rig .running)).setup.shadow.windows =
      .removed ∧
    inputChanged rigSetup.windows (rigSetup.windows.set 0 ⟨131072, 4096, 1, 1, 0⟩) = true ∧
    rigSetup.general.xf ≠ (tuned (fun g => { g with xf := 64 })).general.xf ∧
    (asked 2 true (rig .halted)).setup.engine = .halted ∧
    canComplete (asked 2 true (rig .halted)) ⟨2, 41, true, false⟩ = true := by decide +kernel

/-- A part write in progress. -/
def writing (o : PartOwner) (a : Addr) (d : Word) (s : State) : State := busy (.partWrite ⟨o, a, d⟩) s

theorem witness_RingResetWords :
    (writing (.ringReset 0) 270336 0 (asked 1 true (rig .running))).bus.port =
      some ⟨.partWrite ⟨.ringReset 0, 270336, 0⟩, true⟩ ∧
    (writing (.ringReset 2) 270338 64 (asked 1 true (rig .running))).setup.command =
      some ⟨1, 41, true, false⟩ ∧
    heldWriteReady (writing (.ringReset 2) 270338 64 (asked 1 true (rig .running))) = false ∧
    Memory.wf (rig .running).mem = true := by decide +kernel
theorem witness_StatusAndRefusalWords :
    (writing .refusal 196610 0 (rig .running)).bus.port =
      some ⟨.partWrite ⟨.refusal, 196610, 0⟩, true⟩ ∧
    heldWriteReady (writing .refusal 196610 0 (rig .running)) = false ∧
    (ending (writing .status 196609 0 (rig .running))).setup.status = some ⟨40, 1, .done, .none, 0⟩ ∧
    heldWriteReady (ending (writing .status 196609 0 (rig .running))) = false := by decide +kernel
theorem witness_SetupWordLayout : (27 ≤ 27 ∧ 63 ≤ 63) ∧ (3 ≤ 3 ∧ 15 ≤ 15) := by decide
theorem witness_SetupWriteSetsShadow :
    [16, 91, 128, 199, 208, 223].map (fun n => classify (rig .running) (196608 + BitVec.ofNat 20 n)) =
      [16, 91, 128, 199, 208, 223].map (fun n => some (Role.control, n)) ∧
    hasRoom (rig .running) ∧ (rig .running).setup.command = none :=
  ⟨by decide +kernel, by unfold hasRoom; decide, rfl⟩

theorem witness_LowestEntryDecides :
    (rig .running).map.entry0.base.toNat = 196608 ∧
    classify (rig .running) 196608 = some (.control, 0) ∧
    classify (rig .running) 197631 = some (.control, 1023) ∧
    classify (rig .running) 197632 = none ∧ classify idleRig 131072 = none ∧
    classify (rig .running) 131072 = some (.input, 0) ∧
    classify (rig .running) 139263 = some (.input, 8191) ∧
    classify (rig .running) 139264 = none ∧
    classify (rig .running) 270336 = some (.report, 0) := by decide +kernel
theorem witness_PostedWriteJoinsQueue :
    classify (rig .running) 300000 = none ∧ hasRoom (posted seven (rig .running)) ∧
    [3, 15, 92, 127, 200, 207, 224, 1023].map
      (fun n => classify (rig .running) (196608 + BitVec.ofNat 20 n)) =
      [3, 15, 92, 127, 200, 207, 224, 1023].map (fun n => some (Role.control, n)) ∧
    classify (rig .halted) 131072 = some (.input, 0) ∧ (rig .halted).setup.engine = .halted := by
  refine ⟨by decide +kernel, by unfold hasRoom; decide, by decide +kernel, by decide +kernel, rfl⟩
theorem witness_HeldWritesAreTakenLater :
    8 ≤ (posted (seven ++ [⟨8, 8⟩]) (rig .running)).bus.queue.length ∧
    classify (rig .running) 300000 = none ∧ portFree (asked 3 false (rig .running)) ∧
    (asked 3 false (rig .running)).setup.command ≠ none ∧
    classify (asked 3 false (rig .running)) 196608 = some (.control, 0) ∧
    classify (asked 3 false (rig .running)) 270337 = some (.report, 1) ∧
    (holding (.writeForRoom 300000 1) (posted seven (rig .running))).bus.cycle =
      some (.writeForRoom 300000 1) ∧ hasRoom (posted seven (rig .running)) ∧
    (holding (.writeForCommand 196608 1) (rig .running)).setup.command = none :=
  ⟨by decide, by decide +kernel, ⟨rfl, rfl⟩, (fun h => nomatch h), by decide +kernel,
    by decide +kernel, rfl, by unfold hasRoom; decide, rfl⟩
/-- With 8 entries queued every write that would post is held: pass-through, INPUT, the control window at 0
and 3, a consumer index up to p (R149); one past p, and the status word, are dropped. -/
theorem witness_HeldWritesAreTakenLater_full :
    let s := posted (seven ++ [⟨8, 8⟩])
      { rig .running with rpt := { (rig .running).rpt with producer := 15, consumer := 6 } }
    [(300000, 1), (131072, 1), (196608, 1), (196611, 1), (270337, 15), (270337, 16),
      (196609, 1)].map (fun w => leaves (exec (.postedWrite w.1 w.2) s) (fun t => t.bus.cycle.isSome)) =
      [true, true, true, true, true, false, false].map some := by decide +kernel
theorem witness_DroppedWriteRaisesWindowFault :
    classify (rig .running) 262144 = some (.tap, 0) ∧
    classify (rig .halted) 262399 = some (.tap, 255) ∧
    classify (rig .running) 65536 = some (.protect, 0) ∧
    classify (rig .running) 196609 = some (.control, 1) ∧
    classify (rig .running) 196610 = some (.control, 2) ∧
    classify (rig .running) 270336 = some (.report, 0) ∧
    classify (rig .running) 270338 = some (.report, 2) ∧
    (rig .running).setup.command = none := by decide +kernel
theorem witness_ProcessorReads :
    classify sounding 137304 = some (.input, 6232) ∧
    forwarded sounding.bus.queue 137304 = some 4800 ∧
    forwarded sounding.bus.queue 137306 = none ∧ sounding.bus.port = none ∧
    (busy (.drain ⟨137304, 4800⟩) sounding).bus.port ≠ none ∧
    (busy (.processorRead 9) (holding (.read 9) (rig .idle))).bus.port =
      some ⟨.processorRead 9, true⟩ := by decide +kernel
theorem witness_DrainStoresOldestEntry :
    Memory.wf drainNext.mem = true ∧ drainNext.bus.port = some ⟨.drain ⟨1, 1⟩, true⟩ ∧
    drainNext.bus.queue.head? = some ⟨1, 1⟩ ∧ heldWriteReady drainNext = false := by decide +kernel
theorem witness_ArbiterRanks :
    low.resetLow = true ∧ drainNext.bus.port ≠ none ∧ (rig .running).bus.port = none ∧
    (holding (.read 9) (rig .running)).bus.cycle = some (.read 9) ∧
    mixRead.work.bind (fun w => w.left.head?) = some 137305 ∧
    6 ≤ (posted (seven.take 6) (rig .running)).bus.queue.length ∧
    (posted (seven.take 5) (rig .running)).bus.queue.length < 6 ∧
    grant (holding (.read 9) (rig .running)) =
      busy (.processorRead 9) (holding (.read 9) (rig .running)) := by decide +kernel

theorem witness_CaptureCases :
    classify synced 133474 = some (.input, 2402) ∧ inputSize synced = 8192 ∧
    (rig .running).cap.offset = none ∧ synced.cap.offset = some 100 ∧ hasRoom synced ∧
    [2402, 2403, 2658, 2659, 6497, 6498, 2401].map
      (fun slot => slotGap slot (expectedSlot 100 2302 8192) 8192) =
      [0, 1, 256, 257, 4095, 4096, 8191] :=
  ⟨by decide +kernel, by decide +kernel, rfl, rfl, by unfold hasRoom; decide, by decide +kernel⟩
/-- A rewrite with AT cues listed, due ones among them: none is executed (R6, R9). -/
theorem witness_CaptureCases_rewrite :
    leaves (exec (.capture 133880 5) (listed 2 { synced with cap := ⟨some 2808, 2, 2, 1000⟩ }))
      (fun t => (t.csc.atList.length, t.pln.hold, t.cap)) = some (2, false, ⟨some 2808, 2, 2, 1000⟩) ∧
    257 ≤ slotGap 2808 (expectedSlot 2808 2 8192) 8192 ∧
    8192 / 2 ≤ slotGap 2808 (expectedSlot 2808 2 8192) 8192 := by decide +kernel
theorem witness_CaptureNotifiesHopsAndCues :
    ((2303 : Word) + 1).toNat % 256 = 0 ∧ 2048 ≤ 2047 + 1 ∧ ((2302 : Word) + 1).toNat % 256 ≠ 0 ∧
    ¬ 2048 ≤ 2046 + 1 ∧ synced.trk.inFlight = none ∧
    { synced.trk with inFlight := some ⟨[], 0, 0, ⟨24, 600, 38, 160, 12, 48000, 0⟩⟩ }.inFlight ≠ none ∧
    (parkRecord (voiceOf sounding 0)).state = .parked ∧
    [2303, 2302, 2304, 2147485951, 2147485950].map (fun stamp => isDue 2303 stamp) =
      [true, true, false, true, false] := by decide +kernel
/-- The entry test at its limit: a PARKED voice with a target enters at a fill of LAG_CENTER + 2 (R63). -/
theorem witness_CaptureNotifiesHopsAndCues_entry :
    let waiting (fill : Nat) : State := { rig .running with
      cap := ⟨some 0, 5000, fill, 5000⟩
      vce := ⟨#v[{ VoiceRecord.powerOn with state := .parked, enable := true, target := some ⟨60, 0⟩ },
        VoiceRecord.powerOn, VoiceRecord.powerOn, VoiceRecord.powerOn], false⟩ }
    (voiceOf (entryTests (waiting 1002)) 0).p = some ((4000 : BitVec 32) ++ (0 : BitVec 16)) ∧
    entryTests (waiting 1001) = waiting 1001 := by decide +kernel

/-- An analysis of a silent frame in flight. -/
def analysing (generation : BitVec 16) : State :=
  { rig .running with trk := { (rig .running).trk with
      inFlight := some ⟨List.replicate 2048 0, 2048, generation, ⟨24, 600, 38, 160, 12, 48000, 0⟩⟩ } }

theorem witness_AnalysisCompletes :
    (analysing 0).trk.inFlight.map (·.generation) = some (analysing 0).trk.generation ∧
    (analysing 1).trk.inFlight.map (·.generation) ≠ some (analysing 1).trk.generation := by
  decide +kernel

/-- An analysis of a short square wave, its period 32 samples, its lags 24 to 40. -/
def squareWave : Analysis :=
  ⟨(List.replicate 3 (List.replicate 16 8192 ++ List.replicate 16 (-8192))).flatten, 2048, 0,
    ⟨24, 40, 38, 160, 12, 48000, 0⟩⟩

theorem witness_AnalysisCompletes_decisions :
    [0, 1, 2].map (fun n => ({ Tracker.powerOn with
        sung := if n = 0 then none else some 60, unvoiced := n }.noteDecision General.default
          (analyse { squareWave with frame := [] })).2) = [.kept, .kept, .quiet 60] ∧
    analyse squareWave = ⟨2048, true, false, some 514, some 9017, 255, 9⟩ ∧
    ((rig .running).trk.noteDecision General.default (analyse squareWave)).2 = .onset none 90 := by
  decide +kernel
theorem witness_NoteDecision :
    ((6665 : Int) - 100 * 66).natAbs ≤ 50 + General.default.hysteresis.toNat ∧
    50 + General.default.hysteresis.toNat < ((6666 : Int) - 100 * 66).natAbs ∧
    0 + 1 < General.default.noteHold.toNat ∧ General.default.noteHold.toNat ≤ 1 + 1 ∧
    min 127 ((6666 + 50) / 100) ≠ 66 ∧ min 127 ((12799 + 50) / 100) = 127 ∧
    50 + General.default.hysteresis.toNat < ((12799 : Int) - 100 * 127).natAbs ∧
    General.default.unvoicedHold.toNat ≤ min 16 (2 + 1) ∧
    min 16 (1 + 1) < General.default.unvoicedHold.toNat := by decide +kernel
theorem witness_PitchValueRounded :
    (24 < 40 ∧ 1024 ≤ 1024) ∧ headroomOf (peakOf [4194304, 0]) = 0 ∧ headroomOf (peakOf [0]) = 23 ∧
    8000 ≤ 8000 ∧ 96000 ≤ 96000 ∧ 256 ≤ 256 ∧ 16384 ≤ 16384 ∧ pitchValue 8000 16384 0 = 0 ∧
    pitchValue 96000 256 0 = 11423 := by decide +kernel
/-- A whole frame, silent or at one level. -/
theorem witness_PitchValueRounded_frame (x : Sample) : (List.replicate 2048 x).length = 2048 :=
  List.length_replicate
theorem witness_StartTargetsAndRangeFold :
    rangeFold 48 84 85 = some 73 ∧ rangeFold 48 84 47 = some 59 ∧ rangeFold 48 84 84 = some 84 ∧
    rangeFold 60 60 61 = none := by decide
/-- Start targets in D major and on B minor: 66 up two degrees, down one and for none; between two scale
notes; a chord tone up, down, nearest, and of two as near the lower; the fallback without a chord (R43,
R44). -/
theorem witness_StartTargetsAndRangeFold_targets :
    let s := choir 66 6612 ⟨11, 1⟩ false []
    let at_ (n : Nat) (c : Option Chord) : State :=
      { s with trk := { s.trk with sung := some n }, pln := { s.pln with chord := c } }
    let b := some (⟨11, 1⟩ : Chord)
    scaleMask s s.pln.key.scale ≠ 0 ∧ shapeMask s 1 ≠ 0 ∧ shapeMask s 15 = 0 ∧
    [(2, 66), (-1, 66), (0, 65), (1, 65), (-1, 65)].map (fun x : Int × Nat =>
        modeTarget (at_ x.2 b) ⟨.scale, x.1, 0⟩ none) =
      [69, 64, 64, 66, 62].map some ∧
    [(1, 66), (-1, 66), (0, 66), (0, 69), (2, 65), (0, 60)].map (fun x : Int × Nat =>
        modeTarget (at_ x.2 b) ⟨.chord, x.1, -2⟩ none) =
      [71, 62, 66, 71, 71, 59].map some ∧
    modeTarget (at_ 64 (some ⟨0, 2⟩)) ⟨.chord, 0, 0⟩ none = some 63 ∧
    [none, some ⟨0, 15⟩].map (fun c => modeTarget (at_ 66 c) ⟨.chord, 1, -2⟩ none) =
      [some 62, some 62] := by decide +kernel
/-- A target on a taken note moves to the next note of its set; one that cannot move is kept after three
tries; one whose move cannot be folded fails (R47). -/
theorem witness_StartTargetsAndRangeFold_unison :
    let s := choir 66 6612 ⟨11, 1⟩ false []
    unisonCheck s ⟨.scale, 2, 0⟩ 55 79 [69, 71] 3 (.note 69) = .note 73 ∧
    unisonCheck s ⟨.scale, -2, 0⟩ 55 79 [69] 3 (.note 69) = .note 67 ∧
    unisonCheck s ⟨.pedal, 50, 0⟩ 57 69 [62] 3 (.note 62) = .note 62 ∧
    unisonCheck s ⟨.chord, 0, 0⟩ 66 69 [66] 3 (.note 66) = .failed 71 ∧
    unisonCheck s ⟨.scale, 0, 0⟩ 55 79 [69] 3 (.failed 3) = .failed 3 := by decide +kernel
/-- A choir whose singer has fallen silent; voice 0 has a planned note, voice 1 none. -/
def hushed : State :=
  let s := choir 66 6612 ⟨11, 1⟩ false [some 69]
  { s with trk := { s.trk with sung := none } }

theorem witness_FixedAndPedalTargets :
    (choir 66 6612 ⟨11, 1⟩ false []).trk.sung = some 66 ∧
    (planOf (choir 66 6612 ⟨11, 1⟩ false []) 2).live.mode = .fixed ∧
    (planOf (choir 66 6612 ⟨11, 1⟩ false []) 3).live.mode = .pedal ∧
    hushed.trk.sung = none ∧ (planOf hushed 0).note = some 69 ∧
    (planOf hushed 0).enable = true ∧ (planOf hushed 0).live.mode ≠ .pedal ∧
    (planOf hushed 1).note = none ∧ (planOf hushed 1).enable = true ∧
    (planOf hushed 1).live.mode ≠ .pedal := by decide +kernel
/-- The cases of a shift update: no shift, one beyond 2,400 cents, one at 2,400. -/
theorem witness_AnalysisCompletes_shifts :
    let s := choir 66 6600 ⟨11, 1⟩ false [some 69, some 71]
    let quiet : State := { s with trk := { s.trk with sung := none } }
    targetShift quiet 1 71 (planOf quiet 1) = none ∧ (planOf quiet 1).note = some 71 ∧
    targetShift s 0 69 (planOf s 0) = some 300 ∧ (planOf s 0).shift = none ∧
    targetShift s 0 90 (planOf s 0) = some 2400 ∧ targetShift s 0 91 (planOf s 0) = some 2500 ∧
    (planOf (replanAll s) 0).shift = some 300 ∧ (planOf s 2).note = none := by decide +kernel
theorem witness_PlansOfVoices :
    (planOf (replanAll (choir 66 6612 ⟨11, 1⟩ false [])) 0).note = some 69 ∧
    (planOf (replanAll (choir 66 6612 ⟨11, 1⟩ false [])) 0).shift = some 288 ∧
    (planOf (rig .running) 0).enable = false := by decide +kernel
/-- The plans of one voice: a frozen note under hold, a newly enabled one, a fold that fails, a shift at
and past 2,400 cents; and the four cases of R55. -/
theorem witness_PlansOfVoices_plans :
    let s := choir 66 6612 ⟨11, 1⟩ true [some 73]
    let p := planOf s 0
    let quiet : State := { s with trk := { s.trk with sung := none, history := [] } }
    startTarget s p = some 73 ∧ startTarget s { p with newlyEnabled := true } = some 69 ∧
    startTarget s { p with note := none } = some 69 ∧ planNote s 0 [] = some (.note 73) ∧
    notesOf s [1, 0] = [73] ∧
    planNote (setPlan s 3 { planOf s 3 with live := ⟨.pedal, 58, 0⟩ }) 3 [] = some (.note 58) ∧
    foldResult 64 70 62 = .failed 62 ∧
    targetShift s 0 73 p = some 688 ∧ targetShift s 1 73 p = some 700 ∧
    targetShift quiet 0 73 { p with shift := some 5 } = some 5 ∧ targetShift quiet 0 73 p = none ∧
    targetShift quiet 0 72 { p with shift := some 5 } = none ∧
    targetShift s 1 90 p = some 2400 ∧ targetShift s 1 91 p = some 2500 ∧
    (planVoice (setPlan s 1 { planOf s 1 with live := ⟨.pedal, 91, 0⟩ }) 1 []).rpt.queue.length = 0 := by
  decide +kernel

/-- The rig with the hold flag set. -/
def held : State := { rig .running with pln := { (rig .running).pln with hold := true } }

theorem witness_KeyAndChordCues :
    (rig .running).setup.engine = .running ∧ listening (rig .running) 7 ∧ (11 : Byte).toNat ≤ 11 ∧
    (7 : Byte).toNat ≤ 7 ∧ (255 : Byte).toNat = 255 ∧ (7 : Byte).toNat ≤ 15 ∧
    shapeMask (rig .running) 7 ≠ 0 ∧ (rig .running).pln.hold = false ∧ held.pln.hold = true ∧
    listening held 7 :=
  ⟨rfl, rig_listens.1, by decide, by decide, by decide, by decide, by decide +kernel, rfl, rfl, rfl,
    .inl (by decide)⟩
/-- An undefined shape makes the chord none when its cue is executed, by either list (R37); a cue of the
ONSET list leaves every plan (R128). -/
theorem witness_KeyAndChordCues_executed :
    let s := choir 66 6612 ⟨11, 1⟩ false []
    let t := executeMusical true (.chord (some ⟨0, 15⟩)) s
    shapeMask s 15 = 0 ∧ shapeMask s 1 ≠ 0 ∧ s.pln.hold = false ∧ held.pln.hold = true ∧
    s.pln.chord = some ⟨11, 1⟩ ∧ t.pln.chord = none ∧
    (executeMusical false (.chord (some ⟨0, 15⟩)) s).pln.chord = none ∧
    t.pln.voices = s.pln.voices ∧
    (executeMusical true (.key ⟨4, 1⟩) s).pln = { s.pln with key := ⟨4, 1⟩ } := by decide +kernel
theorem witness_VoiceOnAndOffCues :
    (1 : Byte).toNat ≤ 15 ∧ 1 ≤ (15 : Byte).toNat ∧ (15 : Byte).toNat ≤ 15 ∧
    listening (rig .running) 255 := ⟨by decide, by decide, by decide, rig_listens.2⟩
theorem witness_VoiceOnAndOffCues_handing :
    let s := choir 66 6612 ⟨11, 1⟩ false []
    let p := (planOf (replanAll s) 0)
    p.newlyEnabled = false ∧ p.target = some ⟨69, 288⟩ ∧ p.handed = some 69 ∧
    { p with handed := none }.handed ≠ p.target.map (·.note) ∧ (planOf s 0).target = none ∧
    { p with newlyEnabled := true }.newlyEnabled = true ∧
    ({ mixRead with offset := 5 }.offset < 8 ∧ { mixRead with offset := 5 }.offset % 4 ≠ 0) := by
  decide +kernel
/-- On the ONSET list: VOICE_ON marks, and VOICE_OFF of a voice still marked hands no claim, while that of
one not marked makes its SOUNDING record LEAVING (R40, R41, R66). -/
theorem witness_VoiceOnAndOffCues_executed :
    [[.voiceOff 15], [.voiceOff 15, .voiceOn 15], [.voiceOff 15, .voiceOn 15, .voiceOff 15]].map
        (fun cues : List MusicalCue =>
          let s := cues.foldl (fun s c => executeMusical true c s)
            (setPlan sounding 0 { planOf sounding 0 with enable := true })
          ((planOf s 0).enable, (planOf s 0).newlyEnabled, (voiceOf s 0).enable,
            (voiceOf s 0).state)) =
      [(false, false, false, .leaving), (true, true, false, .leaving),
        (false, false, false, .leaving)] ∧
    (voiceOf sounding 0).state = .sounding := by decide +kernel
/-- On the ONSET list VOICE_MODE and RELEASE leave every note, shift and record (R42, R54). -/
theorem witness_ModeHoldAndReleaseCues_executed :
    let s := choir 66 6612 ⟨11, 1⟩ true []
    let deferred := executeMusical true (.voiceMode 3 .pedal 52) s
    let released := executeMusical true .release deferred
    (planOf deferred 3).live = ⟨.pedal, 50, 0⟩ ∧ (planOf released 3).live = ⟨.pedal, 52, 0⟩ ∧
    released.pln.hold = false ∧ (planOf released 3).note = none ∧ released.vce = s.vce ∧
    (executeMusical true .hold released).pln.hold = true ∧
    (executeMusical false .release deferred) = replanAll released := by decide +kernel
theorem witness_ModeHoldAndReleaseCues :
    (3 : Byte).toNat ≤ 3 ∧ Mode.ofCode (3 : Byte).toNat = some .pedal ∧
    Mode.pedal.inRange (127 : Byte).toInt = true ∧ Mode.scale.inRange (-7 : Byte).toInt = true ∧
    (rig .running).pln.hold = false ∧ held.pln.hold = true := by decide +kernel
theorem witness_TimebaseAndClearCues :
    (rig .running).setup.engine = .running ∧ listening (rig .running) 7 ∧
    isDue 1000 1000 = true ∧ isDue 999 1000 = false ∧ isDue 0 2147483647 = false ∧
    isDue 0 2147483648 = true := ⟨rfl, rig_listens.1, by decide, by decide, by decide, by decide⟩
theorem witness_CuesTurnedAway :
    (Instr.timebase 7 .onset 5 1).cueMessage? = some (7, 8, .onset, [5, 0, 0, 0], 1) ∧
    (Instr.key 7 .now 11 7 0).cueMessage? = some (7, 2, .now, [11, 7], 0) ∧
    (Instr.key 7 .now 11 7 0).wellFormed = true ∧ listening (rig .halted) 7 ∧
    shapeDefined (rig .halted) 2 [11, 7] ∧ (rig .halted).setup.engine = .halted ∧
    State.reset.crx.state = .off :=
  ⟨by decide, by decide, by decide, ⟨rfl, .inl (by decide)⟩, (fun h => by cases h), rfl, rfl⟩
/-- What a cue row that is turned away reports: its kind of event, its detail and its values. -/
def reported (i : Instr) : Option (List (EventKind × Byte × Word × Word)) :=
  leaves (exec i (rig .running)) (fun t => t.rpt.queue.map (fun e => (e.kind, e.detail, e.value, e.second)))
theorem witness_CuesTurnedAway_failures :
    [Instr.timebase 7 (.atStamp 1) 5 1, .timebase 7 .onset 5 0, .clear 7 (.atStamp 1) 0,
      .chord 7 .now 12 0 0, .chord 7 .onset 0 16 0, .chord 7 (.atStamp 1) 0 8 0, .voiceOn 7 .now 0 0,
      .voiceMode 7 .now 4 0 0 0, .voiceMode 7 .now 0 4 0 0, .voiceMode 7 (.atStamp 1) 3 1 5 0,
      .key 8 .now 0 0 0].map reported =
      [some [(.linkBadCue, 1, 10, 1)], some [(.linkBadCue, 4, 8, 2)], some [(.linkBadCue, 4, 9, 2)],
        some [(.linkBadCue, 5, 12, 4)], some [(.linkBadCue, 5, 16, 5)], some [(.linkBadCue, 6, 8, 9)],
        some [(.linkBadCue, 5, 0, 4)], some [(.linkBadCue, 5, 4, 4)], some [(.linkBadCue, 5, 4, 5)],
        some [(.linkBadCue, 5, 5, 10)], some []] ∧
    ¬ namesPart (rig .running) 8 ∧ payloadLegal 5 [3, 1, 5] 0 ∧ payloadLegal 5 [3, 1, 5] 1 ∧
    ¬ payloadLegal 5 [3, 1, 5] 2 ∧ ¬ shapeDefined (rig .running) 1 [0, 8] := by
  refine ⟨by decide +kernel, by unfold namesPart; decide +kernel,
    (by decide : (3 : Byte).toNat ≤ 3), (by decide : (1 : Byte).toNat ≤ 3),
    (by decide : ¬ modeParameterOk 1 5 = true), by unfold shapeDefined; decide +kernel⟩
theorem witness_CuesJoinTheirList :
    (Instr.chord 7 (.atStamp 1) 0 7 0).cueMessage? = some (7, 1, .atStamp 1, [0, 7], 0) ∧
    (Instr.chord 7 (.atStamp 1) 0 7 0).wellFormed = true ∧ shapeDefined (rig .running) 1 [0, 7] ∧
    ((1 : Word) - (rig .running).cap.count).toNat = 1 ∧
    ((2147483647 : Word) - (rig .running).cap.count).toNat < 2147483648 ∧
    2147483648 ≤ ((2147483648 : Word) - (rig .running).cap.count).toNat ∧
    ((0 : Word) - (rig .running).cap.count).toNat = 0 ∧
    cueOf 1 [0, 7] = some (.musical (.chord (some ⟨0, 7⟩))) ∧
    (listed 23 (rig .running)).csc.atList.length < 24 ∧
    24 ≤ (listed 24 (rig .running)).csc.atList.length ∧ listening (listed 24 (rig .running)) 7 :=
  ⟨by decide, by decide, fun _ => .inr (by decide +kernel), by decide, by decide, by decide, by decide,
    by decide, by decide, by decide, rfl, .inl (by decide)⟩

/-- The receiver AWAKE with characters in its buffer. -/
def awake (chars : List Byte) : State :=
  { rig .running with crx := { (rig .running).crx with state := .awake, buffer := chars, timer := true } }

theorem witness_LinkCharacters :
    State.reset.crx.state = .off ∧ (rig .running).crx.state = .asleep ∧ namesPart (rig .running) 7 ∧
    ¬ namesPart (rig .running) 8 ∧ ((0x60E : BitVec 11).extractLsb' 1 8 : Byte) = 7 ∧
    (0x60E : BitVec 11).getLsbD 0 = false ∧ (0x60E : BitVec 11).getLsbD 9 = true ∧
    (0x60E : BitVec 11).getLsbD 10 = true ∧ (0x404 : BitVec 11).getLsbD 9 = false ∧
    (awake []).crx.state = .awake ∧ ([] ++ [(2 : Byte)]).getD 0 0 = 2 ∧
    (awake [9, 5, 0]).crx.buffer.length + 1 < 9 + 3 ∧ (0x001 : BitVec 11).getLsbD 0 = true :=
  ⟨rfl, rfl, .inl (by decide), by unfold namesPart; decide +kernel, by decide, by decide, by decide,
    by decide, by decide, rfl, by decide, by decide, by decide⟩
/-- What the last character of a message comes to: L and a body, their CRC changed by a pattern. -/
def completed (length : Byte) (body : List Byte) (crcError : BitVec 16) :
    Option (ReceiverState × List (EventKind × Byte × Word)) :=
  let crc := crcOf (length :: body) ^^^ crcError
  leaves (exec (.linkCharacterTaken (.samples (charLine false (crc.extractLsb' 8 8))))
    (awake (length :: body ++ [crc.extractLsb' 0 8])))
    (fun t => (t.crx.state, t.rpt.queue.map (fun e => (e.kind, e.detail, e.second))))
/-- The checks of a completed message, each failing alone, and one that passes (R121, R126). -/
theorem witness_LinkCharacters_completed :
    [completed 2 [10, 0] 0, completed 2 [6, 3] 0, completed 3 [6, 0, 0] 0, completed 2 [9, 2] 0,
      completed 3 [4, 0, 16] 0, completed 4 [1, 1, 0, 8] 0, completed 4 [1, 2, 0, 8] 0,
      completed 8 [1, 1, 9, 0, 0, 0, 11, 7] 0].map (Option.map (·.2)) =
      [some [(.linkBadCue, 2, 2)], some [(.linkBadCue, 3, 3)], some [(.linkBadCue, 1, 1)],
        some [(.linkBadCue, 4, 2)], some [(.linkBadCue, 5, 4)], some [(.linkBadCue, 1, 1)],
        some [(.linkBadCue, 6, 5)], some []] ∧
    completed 2 [7, 0] 0 = some (.asleep, []) ∧
    (completed 2 [7, 0] 1).map (fun x => x.2.map (·.1)) = some [.linkBadCrc] := by decide +kernel
/-- A fall, noise, a low stop bit and an address character, in AWAKE and with the line low (R116, R122,
R123). -/
theorem witness_LinkCharacters_levels :
    let run (i : Instr) (s : State) := leaves (exec i s) (fun t => t.crx)
    let low (s : State) : State := { s with crx := { s.crx with lineLow := true } }
    run (.linkCharacterTaken .fall) (awake [2]) =
      some { (awake [2]).crx with timer := false, lineLow := true } ∧
    run (.linkCharacterTaken .fall) (low (awake [2])) = some (low (awake [2])).crx ∧
    run (.linkCharacterTaken (.samples 0x401)) (low (awake [2])) = some (awake [2]).crx ∧
    run (.linkCharacterTaken (.samples 0)) (rig .running) = some (low (rig .running)).crx ∧
    run (.linkCharacterTaken (.samples (charLine true 7))) (awake [2, 6]) =
      some { (awake []).crx with timer := true } ∧
    run (.linkCharacterTaken (.samples (charLine true 8))) (awake [2, 6]) = some (rig .running).crx ∧
    run (.linkCharacterTaken (.samples (charLine false 1))) (awake []) = some (rig .running).crx ∧
    run (.linkCharacterTaken (.samples (charLine false 10))) (awake []) = some (rig .running).crx := by
  decide +kernel
theorem witness_LinkFailures :
    (rig .running).crx.state = .asleep ∧ (rig .running).crx.buffer = [] ∧
    (awake [2, 6]).crx.state = .awake ∧ (awake [2, 6]).crx.timer = true ∧
    { awake [] with crx := { (awake []).crx with state := .inBreak } }.crx.state = .inBreak ∧
    State.reset.crx.state = .off ∧ State.reset.crx.buffer = [] := by decide +kernel

theorem witness_StatusReads :
    [10, 11, 12, 13, 14, 15, 16, 17, 18, 19, 20, 21, 255].map
        (fun n => classify (rig .halted) (262144 + BitVec.ofNat 20 n)) =
      [10, 11, 12, 13, 14, 15, 16, 17, 18, 19, 20, 21, 255].map (fun n => some (Role.tap, n)) ∧
    portFree (rig .halted) := ⟨by decide +kernel, rfl, rfl⟩
/-- The latest-record word with a voiced record, with a silent one, and with none; C; and zero (R33, R11,
R102). -/
theorem test_plain_status_words :
    let s (h : List PitchRecord) : State := { synced with trk := { synced.trk with history := h } }
    let read (n : Nat) (h : List PitchRecord) : Option (Option Word) :=
      leaves (exec (.processorRead (262144 + BitVec.ofNat 20 n)) (s h)) (fun t => t.pd)
    [read 17 [⟨0, true, false, some 1961, some 6698, 224, 4⟩], read 17 [⟨0, false, true, none, none, 0, 15⟩],
      read 17 [], read 19 [], read 20 [], read 10 [], read 255 []].map (Option.map (Option.map BitVec.toNat)) =
      [1073741824 + 1961 * 32768 + 16384 + 6698, 0, 0, 2302, 2302, 0, 0].map
        (fun n => some (some n)) := by decide +kernel
theorem witness_StreamAndPeekReads :
    classify sounding 262144 = some (.tap, 0) ∧ classify sounding 262148 = some (.tap, 4) ∧
    classify sounding 262152 = some (.tap, 8) ∧ classify sounding 262153 = some (.tap, 9) ∧
    (rig .halted).setup.engine = .halted ∧ (voiceOf (rig .running) 3).p = none ∧
    (voiceOf sounding 0).state = .sounding ∧ (voiceOf sounding 0).xfade = none ∧
    wholeLag sounding.cap.c ((39000 : BitVec 32) ++ (16384 : BitVec 16)) = 1001 ∧
    forwarded sounding.bus.queue (ringAddr sounding 39000) = some 4800 ∧
    forwarded sounding.bus.queue (ringAddr sounding (39000 + 1)) = some 5200 ∧
    exactLag sounding.cap.c ((39001 : BitVec 32) ++ (16384 : BitVec 16)) = 65519616 := by
  decide +kernel

/-- Section 8.7 with voice 0 as in `sounding`, voice 2 crossfading and the queue empty: the taking of a mix
stream read holds it for position 39,000, voice 2 still to do. -/
def choral : State :=
  { posted [] sounding with vce := ⟨#v[voiceOf sounding 0, VoiceRecord.powerOn,
      { voiceOf sounding 0 with
        xfade := some ⟨(39100 : BitVec 32) ++ (0 : BitVec 16), 32, 128⟩ },
      VoiceRecord.powerOn], false⟩ }

/-- Where a tap read in flight stands: the fetch on the port, the voices to do, the sum, and the voice in
work with its words and fetches. -/
structure Progress where
  port : Option Addr
  todo : List (Fin 4)
  total : Int
  voice : Option (Fin 4)
  words : List Word
  left : List Addr
deriving DecidableEq, Repr

/-- The progress of the tap read a step leaves in flight. -/
def progress (o : Host.Outcome State Fault Refusal) : Option Progress :=
  (leaves o (fun t => match t.bus.cycle with
    | some (.tap r) => some ⟨maPins t, r.todo, r.total, r.work.map (·.voice),
        (r.work.map (·.words)).getD [], (r.work.map (·.left)).getD []⟩
    | _ => none)).join

theorem witness_StreamAndPeekReads_general :
    leaves (exec (.mixStreamRead 262152) choral) (fun t => (maPins t, t.bus.cycle)) =
      some (some 137304, some (.tap ⟨262152, 8, 40001, none, [1, 2, 3],
        some ⟨0, voiceOf sounding 0, [], [137304, 137305]⟩, [], 0, []⟩)) ∧
    progress (exec (.mixStreamRead 262152)
      (posted [⟨137304, 4800⟩, ⟨137305, 5200⟩, ⟨137405, 1⟩] choral)) =
      some ⟨some 137404, [3], 4900, some 2, [4800, 5200], [137404, 137405]⟩ ∧
    (choral.cap.offset = some 0 ∧ inputSize choral = 8192 ∧
      (hardCheck choral (voiceOf choral 2)).1 = voiceOf choral 2 ∧ 0 < 128) ∧
    forwarded choral.bus.queue 137304 = none := by decide +kernel
/-- The INPUT entry of the rig, and words and values at the ends of each format (R103). -/
theorem witness_StreamAndPeekReads_formats :
    (rig .running).map.entries.toList.find? (fun e => decide (Role.ofCode e.role = some .input)) =
      some ⟨131072, 8192, 1, 1, 0⟩ ∧
    [sampleOf .s16r 0x12347FFF, sampleOf .s16r 0x8000, sampleOf .s24r 0xFF800000,
      sampleOf .s24l 0x800000FF] = [0x7FFF, 0xFF8000, 0x800000, 0x800000] ∧
    [(-32768 : Int), 32767].map (sampleWord .s16r) = [0xFFFF8000, 0x7FFF] ∧
    [(-8388608 : Int), 8388607].map (sampleWord .s24r) = [0xFF800000, 0x7FFFFF] ∧
    [(-8388608 : Int), 8388607].map (sampleWord .s24l) = [0x80000000, 0x7FFFFF00] ∧
    [(-32769 : Int), 32768].map (saturateFormat .s16r) = [-32768, 32767] := by decide +kernel
/-- An exact half of an output goes away from zero, either way (R71). -/
theorem test_round_half_away : roundAway 3 2 = 2 ∧ roundAway (-3) 2 = -2 ∧ roundAway (-1) 4 = 0 := by decide

/-- A mix stream read waiting for its last word. -/
def fetching : State := busy (.tapFetch 137305) (holding (.tap mixRead) sounding)

theorem witness_TapFetches :
    fetching.bus.port = some ⟨.tapFetch 137305, true⟩ ∧ fetching.bus.cycle = some (.tap mixRead) ∧
    mixRead.work.map (·.left) = some [137305] ∧ fetching.resetLow = false ∧ mixRead.todo = [] ∧
    mixRead.claims = [] ∧ forwarded fetching.bus.queue 137306 = none ∧
    outputValue .s24r 128 128 (voiceOf sounding 0) ([4800] ++ [loadWord fetching 137305]) = 3600 := by
  decide +kernel

/-- A mix stream read waiting for the first of two words. -/
def fetchingFirst : State :=
  busy (.tapFetch 137305) (holding (.tap { mixRead with
    work := mixRead.work.map (fun w => { w with words := [], left := [137305, 137306] }) }) sounding)

theorem witness_TapFetches_further :
    fetchingFirst.bus.port = some ⟨.tapFetch 137305, true⟩ ∧ fetchingFirst.resetLow = false ∧
    (match fetchingFirst.bus.cycle with
      | some (.tap r) => r.work.map (·.left)
      | _ => none) = some [137305, 137306] ∧
    forwarded fetchingFirst.bus.queue 137306 = none := by decide +kernel
/-- A fetch that ends voice 0 of a mix read goes on to voice 2, whose first word memory must serve (R106); the
word after one served from the queue joins with it (R111). -/
theorem witness_TapFetches_goingOn :
    progress (exec .tapFetch (busy (.tapFetch 137305)
      (holding (.tap { mixRead with todo := [1, 2, 3] }) { choral with mem := [(137305, 5200)] }))) =
      some ⟨some 137304, [3], 4900, some 2, [], [137304, 137305, 137404, 137405]⟩ ∧
    leaves (exec .tapFetch (busy (.tapFetch 137304) (holding (.tap { mixRead with
        work := mixRead.work.map (fun w => { w with words := [], left := [137304, 137305] }) })
        (posted [⟨137305, 5200⟩] { choral with mem := [(137304, 4800)] })))) (fun t => t.pd) =
      some (some 4900) := by decide +kernel
/-- The hard check at the ends of the hard window, lags 2 and 8,128, and past them (R82, R84, R85). -/
theorem witness_TapFetches_hardCheck :
    [grain 9999 65536 9997 none, grain 9999 65536 1871 none, grain 9999 65536 9998 none,
      grain 9999 65536 1870 none, grain 9999 65536 9997 (some (1871, 1)),
      grain 9999 65536 9997 (some (9998, 1)), grain 9999 65536 1870 (some (9997, 1)),
      grain 9999 65536 1870 (some (9998, 1))].map
        (fun g => (hardCheck g.1 g.2).2.map (fun h => (h.detail, h.lag))) =
      [[], [], [(3, 1)], [(3, 8129)], [], [(2, 1)], [(1, 8129)], [(1, 8129), (3, 1)]] := by
  decide +kernel
/-- A stream read's soft check at the lag window's ends, with its splice, its pending mark, and the end of
a crossfade (R89 to R94). -/
theorem witness_TapFetches_softCheck :
    let after (pending : Bool) (g : State × VoiceRecord) :=
      let r := streamMoves g.1 (some 200) { g.2 with splicePending := pending }
      (r.xfade.map (fun x => (x.q.extractLsb' 16 32, x.k)), r.splicePending)
    [grain 10000 131072 9598 none, grain 10000 131072 9599 none, grain 10000 32768 8399 none,
      grain 10000 32768 8400 none, grain 10000 131072 9598 (some (9599, 1)),
      grain 10000 131072 9598 (some (9598, 127))].map (after false) =
      [(none, false), (some (8801, 1), false), (some (9199, 1), false), (none, false),
        (some (9601, 2), true), (some (9600, 128), false)] ∧
    [grain 10000 65536 9598 (some (8999, 128)), grain 10000 65536 9598 (some (9000, 128)),
      grain 10000 65536 9598 (some (8998, 128))].map (after true) =
      [(none, false), (some (8801, 1), false), (some (9199, 1), false)] := by decide +kernel
/-- The claim's hypothesis: a read that holds a record, and one that does not (R76). -/
theorem witness_TapFetches_claims :
    (holding (.tap mixRead) sounding).bus.cycle = some (.tap mixRead) ∧ 8 ≤ mixRead.offset ∧
    ¬ (8 ≤ { mixRead with offset := 5 }.offset ∨ { mixRead with offset := 5 }.offset % 4 = 0) := by
  decide +kernel
theorem witness_RatioRounded : (-2400 : Int) ≤ -2400 ∧ (2400 : Int) ≤ 2400 := by decide

/-- A voice record in a state, with a target. -/
def aimed (x : VoiceState) (enable : Bool) : VoiceRecord :=
  { VoiceRecord.powerOn with state := x, enable := enable, target := some ⟨60, 0⟩ }

theorem witness_TargetUpdateTaken :
    (aimed .silent false).state = .silent ∧ (aimed .parked true).state = .parked ∧
    (aimed .entering true).state = .entering ∧ (aimed .sounding true).state = .sounding ∧
    (aimed .leaving true).enable = true ∧ (aimed .leaving false).enable = false ∧
    { rig .running with cap := ⟨some 0, 1002, 1002, 0⟩ }.cap.fill =
      (rig .running).setup.active.general.lagCenter.toNat + 2 ∧
    { rig .running with cap := ⟨some 0, 1001, 1001, 0⟩ }.cap.fill <
      (rig .running).setup.active.general.lagCenter.toNat + 2 ∧
    VoiceRecord.powerOn.target = none ∧ (aimed .silent false).target = some ⟨60, 0⟩ := by decide +kernel

/-- The rig with events queued. -/
def reporting (n : Nat) (s : State) : State :=
  { s with rpt := { s.rpt with queue := List.replicate n ⟨.clip, 1, none, 0, 0, 0⟩ } }

theorem witness_EventsReachTheQueue :
    (rig .running).setup.engine ≠ .idle ∧
    Role.ofCode (rig .running).map.entries[(2 : Fin 7)].role = some .report ∧
    (rig .running).setup.active.general.eventMask.getLsbD (EventKind.reportIndex.number - 1) = true ∧
    (reporting 7 (rig .running)).rpt.queue.length < 8 ∧
    8 ≤ (reporting 8 (rig .running)).rpt.queue.length ∧ State.reset.setup.engine = .idle := by
  decide +kernel
theorem witness_RecordsAreWritten :
    reportEntry (reporting 1 (rig .running)) = some ⟨270336, 1024, 3, 0, 64⟩ ∧
    (rig .running).rpt.ringWritten = true ∧ (rig .running).rpt.record = none ∧
    (62 + 64 - 0) % 64 + 1 < 64 ∧ 64 ≤ (63 + 64 - 0) % 64 + 1 ∧
    heldWriteReady (writing (.record 3) 270355 0 (rig .running)) = false ∧
    (writing (.record 3) 270355 0 (rig .running)).bus.port =
      some ⟨.partWrite ⟨.record 3, 270355, 0⟩, true⟩ ∧
    (writing .producer 270336 1 (rig .running)).bus.port =
      some ⟨.partWrite ⟨.producer, 270336, 1⟩, true⟩ ∧
    heldWriteReady (writing .producer 270336 1 (rig .running)) = false ∧
    recordReady (reporting 1 (rig .running)) = true ∧ State.reset.setup.engine = .idle ∧
    (rig .running).rpt.queue = [] ∧ (fallen idleRig).rpt.ringWritten = false ∧
    { (rig .running).rpt with record := some .clip }.record = some .clip := by decide +kernel

/-- The rig's ring with p = 15 and c = 6. -/
def ringed : State :=
  { rig .running with rpt := { (rig .running).rpt with producer := 15, consumer := 6 } }

theorem witness_ConsumerIndexWrites :
    classify ringed 270337 = some (.report, 1) ∧ reportEntry ringed = some ⟨270336, 1024, 3, 0, 64⟩ ∧
    portFree ringed ∧ hasRoom ringed ∧ ringed.setup.command = none ∧
    (6 + 64 - 6) % 64 ≤ (15 + 64 - 6) % 64 ∧ (15 + 64 - 6) % 64 ≤ (15 + 64 - 6) % 64 ∧
    (15 + 64 - 6) % 64 < (16 + 64 - 6) % 64 ∧ 64 ≤ (64 : Word).toNat :=
  ⟨by decide +kernel, by decide +kernel, ⟨rfl, rfl⟩, by unfold hasRoom; decide, rfl, by decide,
    by decide, by decide, by decide⟩
/-- A consumer index that is refused at a full queue is dropped at once (notes/assumptions/17.md). -/
theorem witness_ConsumerIndexWrites_fullQueue :
    let full := posted (seven ++ [⟨8, 8⟩]) ringed
    full.bus.queue.length = 8 ∧ portFree full ∧
    leaves (exec (.consumerIndexWrite 270337 16) full) (fun t => (t.bus.queue.length, t.rpt.queue)) =
      some (8, [⟨.reportIndex, 0, none, 16, 15, 0⟩]) :=
  ⟨rfl, ⟨rfl, rfl⟩, by decide +kernel⟩
theorem witness_AttentionLine :
    attention ringed = true ∧ attention { ringed with rpt := { ringed.rpt with producer := 9 } } = false ∧
    attention { ringed with rpt := { ringed.rpt with
      producer := 9, hopCounter := 8, unconsumed := [⟨.clip, 0⟩, ⟨.clip, 8⟩, ⟨.clip, 8⟩] } } = true ∧
    attention { ringed with rpt := { ringed.rpt with
      producer := 7, unconsumed := [⟨.linkBreak, 0⟩] } } = true ∧
    State.reset.setup.engine = .idle ∧ reportEntry State.reset = none ∧
    State.reset.rpt.ringWritten = false ∧ low.resetLow = true := by decide +kernel

end Sys2Proof.Tests
end

section
/-! PROOFS. Harmony planning (03): start targets by mode, and the note of an enabled voice's plan. -/

namespace Sys2Proof.Machine

/-! ### Start targets by mode (R45) -/

/-- PEDAL mode reads its parameter alone (R45). -/
theorem modeTarget_pedal {live : LiveMode} (hmode : live.mode = .pedal) (s : State)
    (planned : Option Nat) : modeTarget s live planned = some live.parameter := by
  simp only [modeTarget, hmode]

/-- FIXED mode adds its parameter to the sung note (R45). -/
theorem modeTarget_fixed {s : State} {live : LiveMode} {n : Nat} (hmode : live.mode = .fixed)
    (hsung : s.trk.sung = some n) (planned : Option Nat) :
    modeTarget s live planned = some (n + live.parameter) := by
  simp only [modeTarget, hmode, hsung]

/-- A mode that needs a sung note and has none starts from the planned note (R45). -/
theorem modeTarget_unsung {s : State} {live : LiveMode} (hmode : live.mode ≠ .pedal)
    (hsung : s.trk.sung = none) (planned : Option Nat) :
    modeTarget s live planned = planned.map Int.ofNat := by
  cases hm : live.mode with
  | pedal => exact absurd hm hmode
  | scale | chord | fixed => simp only [modeTarget, hm, hsung]

/-! ### Start targets and notes of plans (R48, R53) -/

/-- Without a sung note the frozen target of R53 and the kept target of R45 are the same planned note, so
hold and the newly-enabled mark do not show. -/
theorem startTarget_unsung {s : State} {p : VoicePlan} (hmode : p.live.mode ≠ .pedal)
    (hsung : s.trk.sung = none) : startTarget s p = p.note.map Int.ofNat := by
  unfold startTarget
  split
  case isTrue => rfl
  case isFalse => exact modeTarget_unsung hmode hsung p.note

/-- The note of an enabled voice's plan: its start target folded and, with AVOID, checked (R48). -/
theorem planNote_enabled {s : State} {v : Fin 4} (henable : (planOf s v).enable = true)
    (others : List (Fin 4)) :
    planNote s v others = (startTarget s (planOf s v)).map (fun t =>
      let low : Int := (voiceSetup s v).lowNote.toNat
      let high : Int := (voiceSetup s v).highNote.toNat
      if (voiceSetup s v).avoid then
        unisonCheck s (planOf s v).live low high
          ((s.trk.sung.map Int.ofNat).toList ++ notesOf s others) 3 (foldResult low high t)
      else foldResult low high t) :=
  if_pos henable

/-- Settles O42: FIXED and PEDAL by their equations; without a sung note the start target is the planned
note, and the singer adds none to the notes of the unison check. -/
theorem fixedAndPedalTargets : Obligations.FixedAndPedalTargets := by
  refine ⟨fun s live planned => ⟨?pedal, ?fixed, ?unsung⟩, ?plan⟩
  case pedal => exact fun hmode => modeTarget_pedal hmode s planned
  case fixed => exact fun n hmode hsung => modeTarget_fixed hmode hsung planned
  case unsung =>
    intro hmode hsung
    rw [modeTarget_unsung hmode hsung]
    exact ⟨fun n hplanned => by rw [hplanned]; rfl, fun hplanned => by rw [hplanned]; rfl⟩
  case plan =>
    intro s v others p henable hmode hsung
    have hnote : planNote s v others = _ := planNote_enabled henable others
    rw [startTarget_unsung hmode hsung, hsung] at hnote
    constructor
    · intro hnone
      rw [hnote, hnone]
      rfl
    · intro n hsome
      rw [hnote, hsome]
      rfl

end Sys2Proof.Machine
end

section
/-! PROOFS. Voices (04): a glide step, the entry test and a target update, by the voice's state. -/

namespace Sys2Proof.Machine

/-! ### A glide step toward a held target (R70) -/

/-- The model bounds the difference of the shifts on both sides where R70 bounds its size. -/
theorem glideToward_eq_natAbs (current goal : Int) (limit : Nat) :
    glideToward current goal limit =
      if (goal - current).natAbs ≤ limit then goal
      else if current < goal then current + limit else current - limit := by
  have hsize : (goal - current ≤ limit ∧ current - goal ≤ limit) ↔
      (goal - current).natAbs ≤ limit := by omega
  simp only [glideToward, hsize]

/-- A glide step of a record that holds a target (R70). -/
theorem glideStep_target {r : VoiceRecord} {t : Target} (htarget : r.target = some t)
    (glide : Nat) :
    glideStep glide r =
      if t.shift = r.current then r
      else { r with
        current := glideToward r.current t.shift glide
        ratio := ratioOf (glideToward r.current t.shift glide) } := by
  simp only [glideStep, htarget]

/-! ### The entry test of a PARKED voice with a target (R63) -/

/-- For a PARKED voice with a target the entry test asks for the fill alone (R63). -/
theorem entryPasses_iff_fill {s : State} {r : VoiceRecord} {t : Target} (hparked : r.state = .parked)
    (htarget : r.target = some t) :
    entryPasses s r = true ↔ s.setup.active.general.lagCenter.toNat + 2 ≤ s.cap.fill := by
  simp [entryPasses, hparked, htarget]

/-- A PARKED voice with a target enters at its target shift once the fill reaches LAG_CENTER + 2 (R63). -/
theorem entryTest_enters {s : State} {r : VoiceRecord} {t : Target} (hparked : r.state = .parked)
    (htarget : r.target = some t)
    (hfill : s.setup.active.general.lagCenter.toNat + 2 ≤ s.cap.fill) :
    entryTest s r = enterVoice s t.shift r := by
  have hpasses := (entryPasses_iff_fill hparked htarget).mpr hfill
  simp only [entryTest, htarget, hpasses, if_true]

/-- A PARKED voice with a target waits unchanged while the fill is short of LAG_CENTER + 2 (R63). -/
theorem entryTest_waits {s : State} {r : VoiceRecord} {t : Target} (hparked : r.state = .parked)
    (htarget : r.target = some t)
    (hfill : s.cap.fill < s.setup.active.general.lagCenter.toNat + 2) : entryTest s r = r := by
  have hfails : ¬ entryPasses s r = true := fun hpasses =>
    Nat.not_le_of_lt hfill ((entryPasses_iff_fill hparked htarget).mp hpasses)
  simp only [entryTest, htarget, if_neg hfails]

/-! ### A target update by the voice's state (R67) -/

/-- Steps 1 and 2 of R67: TARGET_CHANGED where the note differs, and the new target in place. -/
def retarget (u : Target) (r : VoiceRecord) : VoiceRecord :=
  { r with
    targetChanged := r.targetChanged || decide (r.target.map (·.note) ≠ some u.note)
    target := some u }

section
variable {r : VoiceRecord} (s : State) (glide : Nat) (u : Target)

/-- A SILENT voice only holds the new target. -/
theorem takeUpdate_silent (hstate : r.state = .silent) :
    takeUpdate s glide u r = retarget u r := by
  simp only [takeUpdate, hstate, retarget]

/-- A PARKED voice makes the entry test with the new target. -/
theorem takeUpdate_parked (hstate : r.state = .parked) :
    takeUpdate s glide u r = entryTest s (retarget u r) := by
  simp only [takeUpdate, hstate, retarget]

/-- An ENTERING or SOUNDING voice makes one glide step. -/
theorem takeUpdate_active (hstate : r.state = .entering ∨ r.state = .sounding) :
    takeUpdate s glide u r = glideStep glide (retarget u r) := by
  obtain hstate | hstate := hstate
  · simp only [takeUpdate, hstate, retarget]
  · simp only [takeUpdate, hstate, retarget]

/-- A LEAVING voice with its enable set turns round, and then makes one glide step. -/
theorem takeUpdate_leaving_enabled (hstate : r.state = .leaving) (henable : r.enable = true) :
    takeUpdate s glide u r = glideStep glide { retarget u r with state := .entering } := by
  simp only [takeUpdate, hstate, henable, if_true, retarget]

/-- A LEAVING voice with its enable clear makes one glide step and fades on. -/
theorem takeUpdate_leaving_disabled (hstate : r.state = .leaving) (henable : r.enable = false) :
    takeUpdate s glide u r = glideStep glide (retarget u r) := by
  simp only [takeUpdate, hstate, henable, Bool.false_eq_true, if_false, retarget]

end

/-- Settles O56: one equation of the target update for each state of the voice, with the entry test of a
PARKED voice split by the fill and the glide step of the others written out in R70's terms. -/
theorem targetUpdateTaken : Obligations.TargetUpdateTaken := by
  intro s glide u r given glided
  have hglided (x : VoiceRecord) (htarget : x.target = some u) : glideStep glide x = glided x := by
    rw [glideStep_target htarget, glideToward_eq_natAbs]
  refine ⟨?silent, ?parked, ?active, ?leaving⟩
  case silent => exact takeUpdate_silent s glide u
  case parked =>
    intro hstate
    have htest : claimOn s glide (.update u) r = entryTest s given :=
      takeUpdate_parked s glide u hstate
    exact ⟨fun hfill => htest.trans (entryTest_enters hstate rfl hfill),
      fun hfill => htest.trans (entryTest_waits hstate rfl hfill)⟩
  case active => exact fun hstate => (takeUpdate_active s glide u hstate).trans (hglided given rfl)
  case leaving =>
    exact fun hstate =>
      ⟨fun henable => (takeUpdate_leaving_enabled s glide u hstate henable).trans (hglided _ rfl),
        fun henable => (takeUpdate_leaving_disabled s glide u hstate henable).trans (hglided given rfl)⟩

end Sys2Proof.Machine
end

section
/-! PROOFS. What the work of a step's blocks keeps: the planner, the scheduler, the receiver, the tracker and
capture change their own fields, and keep each store within its capacity and each voice record consistent. -/

namespace Sys2Proof.Machine

/-! ### The relations of a block's work -/

/-- The cycle held stays, but that claims may come to wait in a tap read (R76). -/
def claimsOnly (c d : Option Cycle) : Prop :=
  d = c ∨ ∃ r claims, c = some (.tap r) ∧ d = some (.tap { r with claims := claims })

/-- Nothing changes but PD, the blocks' own fields and the cycle held. -/
def blocksOnly (s t : State) : Prop :=
  t = { s with
    pd := t.pd, bus := { s.bus with cycle := t.bus.cycle }, cap := t.cap, trk := t.trk, pln := t.pln,
    vce := t.vce, crx := t.crx, csc := t.csc, rpt := t.rpt }

/-- The work of the blocks inside a step: its frame, and the invariants it keeps. -/
structure BlockWork (s t : State) : Prop where
  frame : blocksOnly s t
  cycle : claimsOnly s.bus.cycle t.bus.cycle
  voices : (∀ v, (voiceOf s v).consistent) → ∀ v, (voiceOf t v).consistent
  capacity : withinCapacity s → withinCapacity t

/-- Where the next position goes, C and the fill: what only capture moves. -/
def captureStill (s t : State) : Prop :=
  t.cap.offset = s.cap.offset ∧ t.cap.c = s.cap.c ∧ t.cap.fill = s.cap.fill

theorem claimsOnly_refl (c : Option Cycle) : claimsOnly c c := Or.inl rfl

theorem claimsOnly_trans {c d e : Option Cycle} (h₁ : claimsOnly c d) (h₂ : claimsOnly d e) :
    claimsOnly c e := by
  obtain rfl | ⟨r, k, rfl, rfl⟩ := h₁
  · exact h₂
  · obtain rfl | ⟨r', k', hr, rfl⟩ := h₂
    · exact Or.inr ⟨r, k, rfl, rfl⟩
    · simp only [Option.some.injEq, Cycle.tap.injEq] at hr
      subst hr
      exact Or.inr ⟨r, k', rfl, rfl⟩

theorem blocksOnly_trans {s t u : State} (h₁ : blocksOnly s t) (h₂ : blocksOnly t u) :
    blocksOnly s u := by
  obtain ⟨_, _, _, _, ⟨_, _, _, _⟩, _, _, _, _, _, _, _, _, _⟩ := s
  obtain ⟨_, _, _, _, ⟨_, _, _, _⟩, _, _, _, _, _, _, _, _, _⟩ := t
  obtain ⟨_, _, _, _, ⟨_, _, _, _⟩, _, _, _, _, _, _, _, _, _⟩ := u
  simp only [blocksOnly, State.mk.injEq, BusPath.mk.injEq, true_and, and_true] at h₁ h₂ ⊢
  simp only [h₁, h₂, and_self]

theorem planOnly.blocksOnly {s t : State} (h : planOnly s t) : blocksOnly s t := by
  obtain ⟨_, _, _, _, ⟨_, _, _, _⟩, _, _, _, _, _, _, _, _, ⟨_, _, _, _, _, _, _, _⟩⟩ := s
  obtain ⟨_, _, _, _, ⟨_, _, _, _⟩, _, _, _, _, _, _, _, _, ⟨_, _, _, _, _, _, _, _⟩⟩ := t
  simp only [Machine.planOnly, State.mk.injEq, BusPath.mk.injEq, ReportUnit.mk.injEq] at h
  simp only [Machine.blocksOnly, h]

theorem captureStill_refl (s : State) : captureStill s s := ⟨rfl, rfl, rfl⟩

theorem captureStill_trans {s t u : State} (h₁ : captureStill s t) (h₂ : captureStill t u) :
    captureStill s u :=
  ⟨h₂.1.trans h₁.1, h₂.2.1.trans h₁.2.1, h₂.2.2.trans h₁.2.2⟩

theorem planOnly.captureStill {s t : State} (h : planOnly s t) : captureStill s t :=
  ⟨by rw [h.cap], by rw [h.cap], by rw [h.cap]⟩

namespace BlockWork

theorem refl (s : State) : BlockWork s s := ⟨rfl, claimsOnly_refl _, id, id⟩

theorem trans {s t u : State} (h₁ : BlockWork s t) (h₂ : BlockWork t u) : BlockWork s u :=
  ⟨blocksOnly_trans h₁.frame h₂.frame, claimsOnly_trans h₁.cycle h₂.cycle, h₂.voices ∘ h₁.voices,
    h₂.capacity ∘ h₁.capacity⟩

theorem foldl {α : Type} {f : State → α → State} (h : ∀ s x, BlockWork s (f s x)) (l : List α)
    (s : State) : BlockWork s (l.foldl f s) := by
  induction l generalizing s with
  | nil => exact refl s
  | cons x rest ih => exact (h s x).trans (ih (f s x))

theorem pending {s t : State} (h : BlockWork s t) : t.pending = s.pending := by rw [h.frame]
theorem resetLow {s t : State} (h : BlockWork s t) : t.resetLow = s.resetLow := by rw [h.frame]
theorem mem {s t : State} (h : BlockWork s t) : t.mem = s.mem := by rw [h.frame]
theorem map {s t : State} (h : BlockWork s t) : t.map = s.map := by rw [h.frame]
theorem setup {s t : State} (h : BlockWork s t) : t.setup = s.setup := by rw [h.frame]
theorem queue {s t : State} (h : BlockWork s t) : t.bus.queue = s.bus.queue := by rw [h.frame]
theorem port {s t : State} (h : BlockWork s t) : t.bus.port = s.bus.port := by rw [h.frame]
theorem requests {s t : State} (h : BlockWork s t) : t.bus.requests = s.bus.requests := by
  rw [h.frame]

end BlockWork

/-! ### Single updates -/

/-- A voice's record set to a consistent one keeps all records consistent. -/
theorem setVoice_consistent {s : State} {v : Fin 4} {r : VoiceRecord}
    (h : (voiceOf s v).consistent → r.consistent) (hall : ∀ u, (voiceOf s u).consistent) (u : Fin 4) :
    (voiceOf (setVoice s v r) u).consistent := by
  by_cases hu : u = v
  · rw [hu, voiceOf_setVoice_same]; exact h (hall v)
  · rw [voiceOf_setVoice_other _ _ _ _ hu]; exact hall u

theorem work_setVoice {s : State} {v : Fin 4} {r : VoiceRecord}
    (h : (voiceOf s v).consistent → r.consistent) : BlockWork s (setVoice s v r) :=
  ⟨rfl, claimsOnly_refl _, setVoice_consistent h, id⟩

theorem work_mapVoices {f : Fin 4 → VoiceRecord → VoiceRecord}
    (h : ∀ v r, r.consistent → (f v r).consistent) (s : State) : BlockWork s (mapVoices s f) :=
  BlockWork.foldl (fun s v => work_setVoice (h v (voiceOf s v))) _ s

theorem work_planner (s : State) (p : Planner) : BlockWork s { s with pln := p } :=
  ⟨rfl, claimsOnly_refl _, id, id⟩

theorem work_pd (s : State) (d : Option Word) : BlockWork s { s with pd := d } :=
  ⟨rfl, claimsOnly_refl _, id, id⟩

theorem work_beginStep (s : State) : BlockWork s (beginStep s) := work_pd s none

theorem work_count (s : State) (n : Word) :
    BlockWork s { s with cap := { s.cap with count := n } } :=
  ⟨rfl, claimsOnly_refl _, id, id⟩

theorem work_receiver {s : State} {r : Receiver} (h : s.crx.assembling → r.assembling) :
    BlockWork s { s with crx := r } :=
  ⟨rfl, claimsOnly_refl _, id, fun ⟨queue, events, cues, records, samples, fill, refusals, message⟩ =>
    ⟨queue, events, cues, records, samples, fill, refusals, h message⟩⟩

theorem work_lists {s : State} {c : Scheduler}
    (h : s.csc.atList.length + s.csc.onsetList.length ≤ 24 →
      c.atList.length + c.onsetList.length ≤ 24) : BlockWork s { s with csc := c } :=
  ⟨rfl, claimsOnly_refl _, id, fun ⟨queue, events, cues, records, samples, fill, refusals, message⟩ =>
    ⟨queue, events, h cues, records, samples, fill, refusals, message⟩⟩

theorem work_tracker {s : State} {k : Tracker}
    (hhistory : s.trk.history.length ≤ 8 → k.history.length ≤ 8)
    (hbuffer : s.trk.buffer.length ≤ 2048 → k.buffer.length ≤ 2048) :
    BlockWork s { s with trk := k } :=
  ⟨rfl, claimsOnly_refl _, id, fun ⟨queue, events, cues, records, samples, fill, refusals, message⟩ =>
    ⟨queue, events, cues, hhistory records, hbuffer samples, fill, refusals, message⟩⟩

theorem work_capture {s : State} {c : CaptureUnit} (h : s.cap.fill ≤ 65536 → c.fill ≤ 65536) :
    BlockWork s { s with cap := c } :=
  ⟨rfl, claimsOnly_refl _, id, fun ⟨queue, events, cues, records, samples, fill, refusals, message⟩ =>
    ⟨queue, events, cues, records, samples, h fill, refusals, message⟩⟩

/-- The Report Unit's own values, the event queue not grown past its capacity. -/
theorem work_report {s : State} {r : ReportUnit} (h : s.rpt.queue.length ≤ 8 → r.queue.length ≤ 8) :
    BlockWork s { s with rpt := r } :=
  ⟨rfl, claimsOnly_refl _, id, fun ⟨queue, events, cues, records, samples, fill, refusals, message⟩ =>
    ⟨queue, h events, cues, records, samples, fill, refusals, message⟩⟩

theorem work_raiseEvent (s : State) (e : Event) : BlockWork s (raiseEvent s e) := by
  rw [raiseEvent_rptOnly]
  exact work_report (fun h => raiseEvent_queue_le h e)

theorem work_raiseEvents (s : State) (es : List Event) : BlockWork s (raiseEvents s es) :=
  BlockWork.foldl work_raiseEvent es s

theorem work_setPlan (s : State) (v : Fin 4) (p : VoicePlan) : BlockWork s (setPlan s v p) :=
  work_planner s _

/-! ### Claims and plans -/

theorem work_takeClaim (s : State) (v : Fin 4) (c : Claim) : BlockWork s (takeClaim s v c) :=
  work_setVoice fun h => claimOn_consistent h s _ c

theorem work_handClaim (s : State) (v : Fin 4) (c : Claim) : BlockWork s (handClaim s v c) := by
  unfold handClaim
  split
  · rename_i r hr
    split
    · exact ⟨rfl, Or.inr ⟨r, _, hr, rfl⟩, id, id⟩
    · exact work_takeClaim s v c
  · exact work_takeClaim s v c

theorem work_mapPlans (s : State) (f : Fin 4 → VoicePlan → VoicePlan) : BlockWork s (mapPlans s f) :=
  BlockWork.foldl (fun s v => work_setPlan s v _) _ s

theorem work_planVoice (s : State) (v : Fin 4) (others : List (Fin 4)) :
    BlockWork s (planVoice s v others) := by
  unfold planVoice
  dsimp only
  split
  · exact work_setPlan s v _
  · exact (work_setPlan s v _).trans (work_raiseEvent _ _)
  · split
    · exact work_setPlan s v _
    · exact (work_setPlan s v _).trans (work_raiseEvent _ _)

theorem work_handVoice (s : State) (v : Fin 4) : BlockWork s (handVoice s v) := by
  unfold handVoice
  dsimp only
  split
  · exact (work_setPlan s v _).trans (work_handClaim _ _ _)
  · split
    · exact work_setPlan s v _
    · split
      · exact (work_setPlan s v _).trans (work_handClaim _ _ _)
      · exact (work_setPlan s v _).trans (work_handClaim _ _ _)

theorem work_replanAll (s : State) : BlockWork s (replanAll s) :=
  (BlockWork.foldl (fun s v => work_planVoice s v _) _ s).trans (BlockWork.foldl work_handVoice _ _)

theorem work_replanOne (s : State) (v : Fin 4) : BlockWork s (replanOne s v) :=
  (work_planVoice s v _).trans (work_handVoice _ v)

theorem work_shiftUpdate (s : State) (v : Fin 4) : BlockWork s (shiftUpdate s v) := by
  unfold shiftUpdate
  dsimp only
  split
  · exact BlockWork.refl s
  · split
    · exact ((work_setPlan s v _).trans (work_raiseEvent _ _)).trans (work_handClaim _ _ _)
    · split
      · exact (work_setPlan s v _).trans (work_handClaim _ _ _)
      · exact (work_setPlan s v _).trans (work_handClaim _ _ _)
      · exact work_setPlan s v _

theorem work_shiftUpdates (s : State) : BlockWork s (shiftUpdates s) :=
  BlockWork.foldl work_shiftUpdate _ s

theorem work_enableVoice (s : State) (v : Fin 4) : BlockWork s (enableVoice s v) := by
  unfold enableVoice
  split
  · exact BlockWork.refl s
  · exact work_setPlan s v _

theorem work_disableVoice (s : State) (v : Fin 4) : BlockWork s (disableVoice s v) := by
  unfold disableVoice
  dsimp only
  split
  · split
    · exact work_setPlan s v _
    · exact (work_setPlan s v _).trans (work_handClaim _ _ _)
  · exact BlockWork.refl s

/-! ### Cues -/

theorem work_replanUnless (b : Bool) (s : State) : BlockWork s (replanUnless b s) := by
  unfold replanUnless
  split
  · exact BlockWork.refl s
  · exact work_replanAll s

theorem work_executeMusical (b : Bool) (cue : MusicalCue) (s : State) :
    BlockWork s (executeMusical b cue s) := by
  cases cue with
  | chord c =>
    show BlockWork s (executeChord b c s)
    unfold executeChord
    split
    · exact work_planner s _
    · exact (work_planner s _).trans (work_replanUnless b _)
  | key k =>
    show BlockWork s (executeKey b k s)
    unfold executeKey
    split
    · exact work_planner s _
    · exact (work_planner s _).trans (work_replanUnless b _)
  | voiceOn mask => exact (BlockWork.foldl work_enableVoice _ s).trans (work_replanUnless b _)
  | voiceOff mask => exact BlockWork.foldl work_disableVoice _ s
  | voiceMode v m x =>
    show BlockWork s (executeVoiceMode b v m x s)
    unfold executeVoiceMode
    dsimp only
    split
    · exact work_setPlan s v _
    · split
      · exact work_setPlan s v _
      · exact (work_setPlan s v _).trans (work_replanOne _ v)
  | hold => exact work_planner s _
  | release => exact ((work_planner s _).trans (work_mapPlans _ _)).trans (work_replanUnless b _)

theorem work_setAtList {s : State} {l : List AtEntry} (h : l.length ≤ s.csc.atList.length) :
    BlockWork s (setAtList s l) :=
  work_lists fun hcues => by dsimp only; omega

/-- Executing the due front of a list no longer than the AT list leaves no longer a list. -/
theorem work_executeDue (list : List AtEntry) (s : State)
    (h : list.length ≤ s.csc.atList.length) : BlockWork s (executeDue list s) := by
  induction list generalizing s with
  | nil => exact work_setAtList (Nat.zero_le _)
  | cons e rest ih =>
    rw [List.length_cons] at h
    unfold executeDue
    split
    · refine ((work_setAtList (by omega)).trans (work_executeMusical false e.cue _)).trans (ih _ ?_)
      rw [(executeMusical_planOnly _ _ _).csc]
      exact Nat.le_refl _
    · exact work_setAtList h

theorem work_advanceCount (s : State) (n : Nat) : BlockWork s (advanceCount s n) :=
  (work_count s _).trans (work_executeDue _ _ (Nat.le_refl _))

theorem work_executeOnsetList (list : List MusicalCue) (s : State)
    (h : list.length ≤ s.csc.onsetList.length) : BlockWork s (executeOnsetList list s) := by
  induction list generalizing s with
  | nil => exact work_lists fun hcues => by dsimp only [List.length_nil]; omega
  | cons cue rest ih =>
    rw [List.length_cons] at h
    unfold executeOnsetList
    refine ((work_lists fun hcues => ?_).trans (work_executeMusical true cue _)).trans (ih _ ?_)
    · dsimp only; omega
    · rw [(executeMusical_planOnly _ _ _).csc]

theorem work_executeLate (list : List AtEntry) (s : State) : BlockWork s (executeLate list s) := by
  induction list generalizing s with
  | nil => exact BlockWork.refl s
  | cons e rest ih =>
    unfold executeLate
    split
    · exact ((work_raiseEvent _ _).trans (work_executeMusical _ _ _)).trans (ih _)
    · exact ih s

theorem insertAt_length (count : Word) (e : AtEntry) (list : List AtEntry) :
    (insertAt count e list).length = list.length + 1 := by
  induction list with
  | nil => rfl
  | cons x rest ih =>
    unfold insertAt
    split
    · rw [List.length_cons, ih, List.length_cons]
    · rfl

theorem foldl_insertAt_length (count : Word) (list sorted : List AtEntry) :
    (list.foldl (fun sorted e => insertAt count e sorted) sorted).length =
      list.length + sorted.length := by
  induction list generalizing sorted with
  | nil => simp
  | cons x rest ih => rw [List.foldl_cons, ih, insertAt_length, List.length_cons]; omega

theorem sortAt_length (count : Word) (list : List AtEntry) :
    (sortAt count list).length = list.length :=
  (foldl_insertAt_length count list []).trans (Nat.add_zero _)

theorem work_executeTimebase (count : Word) (s : State) : BlockWork s (executeTimebase count s) := by
  have hkept : (sortAt count (s.csc.atList.filter fun e => !isDue count e.stamp)).length ≤
      s.csc.atList.length := by
    rw [sortAt_length]
    exact List.length_filter_le _ _
  exact ((work_count s count).trans (work_setAtList hkept)).trans (work_executeLate _ _)

theorem work_scheduleMusical (s : State) (cue : MusicalCue) (due : Due) :
    BlockWork s (scheduleMusical s cue due) := by
  cases due with
  | now => exact work_executeMusical false cue s
  | atStamp stamp =>
    unfold scheduleMusical
    dsimp only
    split
    · split
      · exact work_executeMusical false cue s
      · exact (work_raiseEvent _ _).trans (work_executeMusical _ _ _)
    · split
      · rename_i hroom
        refine work_lists fun _ => ?_
        show (insertAt _ _ _).length + s.csc.onsetList.length ≤ 24
        rw [insertAt_length]
        unfold listedCues Config.cueListSize at hroom
        omega
      · exact work_raiseEvent _ _
  | onset =>
    unfold scheduleMusical
    dsimp only
    split
    · rename_i hroom
      refine work_lists fun _ => ?_
      show s.csc.atList.length + (s.csc.onsetList ++ [cue]).length ≤ 24
      rw [List.length_append, List.length_singleton]
      unfold listedCues Config.cueListSize at hroom
      omega
    · exact work_raiseEvent _ _

theorem work_emptyLists (s : State) : BlockWork s (emptyLists s) := work_lists fun _ => Nat.zero_le _

theorem work_acceptCue (s : State) (cue : Cue) (due : Due) : BlockWork s (acceptCue s cue due) := by
  unfold acceptCue
  split
  · cases cue with
    | musical cue => exact work_scheduleMusical s cue due
    | timebase count => exact work_executeTimebase count s
    | clear => exact work_emptyLists s
  · exact work_raiseEvent _ _
  · exact BlockWork.refl s

/-! ### The link -/

theorem work_fallAsleep (s : State) : BlockWork s (fallAsleep s) :=
  work_receiver fun _ => assembling_nil rfl

theorem work_lineRises (s : State) : BlockWork s (lineRises s) :=
  work_receiver fun h => assembling_congr h rfl

theorem fall_buffer (r : Receiver) (d : BitVec 12) : (r.fall d).buffer = r.buffer := by
  unfold Receiver.fall
  split <;> rfl

theorem work_seeFall (s : State) : BlockWork s (seeFall s) := by
  unfold seeFall
  split
  · exact BlockWork.refl s
  · exact work_receiver fun h => assembling_congr h (fall_buffer _ _)

theorem work_compareAddress (s : State) (value : Byte) : BlockWork s (compareAddress s value) := by
  unfold compareAddress
  split
  · exact work_receiver fun _ => assembling_nil rfl
  · exact BlockWork.refl s

theorem work_completeMessage (s : State) (chars : List Byte) :
    BlockWork s (completeMessage s chars) := by
  unfold completeMessage
  dsimp only
  split
  · exact (work_fallAsleep s).trans (work_raiseEvent _ _)
  · split
    · exact (work_fallAsleep s).trans (work_raiseEvent _ _)
    · exact (work_fallAsleep s).trans (work_acceptCue _ _ _)

theorem work_takeDataChar (s : State) (value : Byte) : BlockWork s (takeDataChar s value) := by
  have hkept := fun h : s.crx.assembling => takeDataChar_assembling h value
  unfold takeDataChar at hkept ⊢
  dsimp only at hkept ⊢
  split
  · exact (work_fallAsleep s).trans (work_raiseEvent _ _)
  · rename_i hrange
    rw [if_neg hrange] at hkept
    split
    · exact work_completeMessage s _
    · rename_i hlast
      rw [if_neg hlast] at hkept
      exact work_receiver hkept

theorem work_cutOffMessage (s : State) (value : Byte) : BlockWork s (cutOffMessage s value) :=
  ((work_fallAsleep s).trans (work_raiseEvent _ _)).trans (work_compareAddress _ value)

theorem work_takeCharacter (s : State) (flag : Bool) (value : Byte) :
    BlockWork s (takeCharacter s flag value) := by
  unfold takeCharacter
  split
  · exact BlockWork.refl s
  · exact BlockWork.refl s
  · split
    · exact work_compareAddress s value
    · exact BlockWork.refl s
  · split
    · exact work_cutOffMessage s value
    · exact work_takeDataChar s value

theorem work_receiveCharacter (s : State) (flag : Bool) (value : Byte) :
    BlockWork s (receiveCharacter s flag value) :=
  ((work_seeFall s).trans (work_lineRises _)).trans (work_takeCharacter _ flag value)

theorem work_takeMessage (s : State) (dest kind : Byte) (due : Due) (payload : List Byte)
    (e : BitVec 16) : BlockWork s (takeMessage s dest kind due payload e) :=
  (work_receiveCharacter s true dest).trans
    (BlockWork.foldl (fun s c => work_receiveCharacter s false c) _ _)

/-! ### The link leaves capture still (R10, R112) -/

theorem raiseEvent_captureStill (s : State) (e : Event) : captureStill s (raiseEvent s e) :=
  (raiseEvent_eventsOnly s e).planOnly.captureStill

theorem acceptCue_captureStill (s : State) (cue : Cue) (due : Due) :
    captureStill s (acceptCue s cue due) := by
  unfold acceptCue
  split
  · cases cue with
    | musical cue =>
      cases due with
      | now => exact (executeMusical_planOnly false cue s).captureStill
      | atStamp stamp =>
        show captureStill s (scheduleMusical s cue (.atStamp stamp))
        unfold scheduleMusical
        dsimp only
        split
        · split
          · exact (executeMusical_planOnly false cue s).captureStill
          · exact captureStill_trans (raiseEvent_captureStill _ _)
              (executeMusical_planOnly _ _ _).captureStill
        · split
          · exact captureStill_refl s
          · exact raiseEvent_captureStill _ _
      | onset =>
        show captureStill s (scheduleMusical s cue .onset)
        unfold scheduleMusical
        dsimp only
        split
        · exact captureStill_refl s
        · exact raiseEvent_captureStill _ _
    | timebase count =>
      exact (executeLate_planOnly s.csc.atList (setAtList { s with cap := { s.cap with count := count } }
        (sortAt count (s.csc.atList.filter fun e => !isDue count e.stamp)))).captureStill
    | clear => exact captureStill_refl s
  · exact raiseEvent_captureStill _ _
  · exact captureStill_refl s

theorem seeFall_captureStill (s : State) : captureStill s (seeFall s) := by
  simp [captureStill]

theorem compareAddress_captureStill (s : State) (value : Byte) :
    captureStill s (compareAddress s value) := by
  unfold compareAddress
  split
  · exact captureStill_refl s
  · exact captureStill_refl s

theorem takeCharacter_captureStill (s : State) (flag : Bool) (value : Byte) :
    captureStill s (takeCharacter s flag value) := by
  have hfail (t : State) (e : Event) (h : captureStill s t) : captureStill s (raiseEvent t e) :=
    captureStill_trans h (raiseEvent_captureStill t e)
  have hasleep : captureStill s (fallAsleep s) := captureStill_refl s
  unfold takeCharacter
  split
  · exact captureStill_refl s
  · exact captureStill_refl s
  · split
    · exact compareAddress_captureStill s value
    · exact captureStill_refl s
  · split
    · exact captureStill_trans (hfail _ _ hasleep) (compareAddress_captureStill _ value)
    · unfold takeDataChar
      dsimp only
      split
      · exact hfail _ _ hasleep
      · split
        · unfold completeMessage
          dsimp only
          split
          · exact hfail _ _ hasleep
          · split
            · exact hfail _ _ hasleep
            · exact captureStill_trans hasleep (acceptCue_captureStill _ _ _)
        · exact captureStill_refl s

theorem receiveCharacter_captureStill (s : State) (flag : Bool) (value : Byte) :
    captureStill s (receiveCharacter s flag value) :=
  captureStill_trans (seeFall_captureStill s) (takeCharacter_captureStill (lineRises (seeFall s)) flag value)

theorem takeMessage_captureStill (s : State) (dest kind : Byte) (due : Due) (payload : List Byte)
    (e : BitVec 16) : captureStill s (takeMessage s dest kind due payload e) := by
  unfold takeMessage
  generalize messageChars kind due payload e = chars
  have hfold (u : State) : captureStill u (chars.foldl (fun s c => receiveCharacter s false c) u) := by
    induction chars generalizing u with
    | nil => exact captureStill_refl u
    | cons c rest ih => exact captureStill_trans (receiveCharacter_captureStill u false c) (ih _)
  exact captureStill_trans (receiveCharacter_captureStill s true dest) (hfold _)

/-! ### Analyses -/

theorem decideVoiced_stores (t : Tracker) (g : General) (pitch : Nat) :
    (t.decideVoiced g pitch).1.history = t.history ∧ (t.decideVoiced g pitch).1.buffer = t.buffer := by
  unfold Tracker.decideVoiced
  split
  · exact ⟨rfl, rfl⟩
  · split
    · exact ⟨rfl, rfl⟩
    · split
      · exact ⟨rfl, rfl⟩
      · split
        · exact ⟨rfl, rfl⟩
        · exact ⟨rfl, rfl⟩

theorem decideUnvoiced_stores (t : Tracker) (g : General) :
    (t.decideUnvoiced g).1.history = t.history ∧ (t.decideUnvoiced g).1.buffer = t.buffer := by
  unfold Tracker.decideUnvoiced
  split
  · exact ⟨rfl, rfl⟩
  · split
    · exact ⟨rfl, rfl⟩
    · exact ⟨rfl, rfl⟩

/-- A note decision keeps the history and the analysis buffer. -/
theorem noteDecision_stores (t : Tracker) (g : General) (r : PitchRecord) :
    (t.noteDecision g r).1.history = t.history ∧ (t.noteDecision g r).1.buffer = t.buffer := by
  unfold Tracker.noteDecision
  split
  · exact decideVoiced_stores t g _
  · exact decideUnvoiced_stores t g

theorem work_handOutcome (s : State) (o : NoteOutcome) : BlockWork s (handOutcome s o) := by
  cases o with
  | kept => exact BlockWork.refl s
  | onset => exact (work_executeOnsetList _ s (Nat.le_refl _)).trans (work_replanAll _)
  | quiet => exact work_replanAll s

theorem work_enterRecord (s : State) (r : PitchRecord) : BlockWork s (enterRecord s r) := by
  obtain ⟨hhistory, hbuffer⟩ := noteDecision_stores (s.trk.enter r) s.setup.active.general r
  refine (((work_tracker (fun _ => ?_) fun h => ?_).trans (work_raiseEvents _ _)).trans
    (work_handOutcome _ _)).trans (work_shiftUpdates _)
  · rw [hhistory]
    exact List.length_take_le _ _
  · rw [hbuffer]
    exact h

theorem work_completeAnalysis (s : State) (x : Analysis) : BlockWork s (completeAnalysis s x) := by
  have hended : BlockWork s (endAnalysis s) := work_tracker id id
  unfold completeAnalysis
  split
  · exact hended.trans (work_enterRecord _ _)
  · exact hended

theorem raiseEvents_captureStill (s : State) (es : List Event) : captureStill s (raiseEvents s es) :=
  (raiseEvents_eventsOnly es s).planOnly.captureStill

theorem completeAnalysis_captureStill (s : State) (x : Analysis) :
    captureStill s (completeAnalysis s x) := by
  have houtcome (u : State) (o : NoteOutcome) : captureStill u (handOutcome u o) := by
    cases o with
    | kept => exact captureStill_refl u
    | onset =>
      have honset : captureStill u (executeOnsetList u.csc.onsetList u) :=
        (executeOnsetList_spec u.csc.onsetList u).1.captureStill
      exact captureStill_trans honset (replanAll_planOnly _).captureStill
    | quiet => exact (replanAll_planOnly u).captureStill
  unfold completeAnalysis
  split
  · have hevents := raiseEvents_captureStill
    exact captureStill_trans (captureStill_trans (captureStill_trans (t := { endAnalysis s with
      trk := (((endAnalysis s).trk.enter (analyse x)).noteDecision
        (endAnalysis s).setup.active.general (analyse x)).1 }) (captureStill_refl s)
      (hevents _ _)) (houtcome _ _)) (shiftUpdates_planOnly _).captureStill
  · exact captureStill_refl s

/-! ### Capture -/

theorem work_placeSample (s : State) (x : Sample) : BlockWork s (placeSample s x) := by
  have hbuffer : (s.trk.push x).buffer.length ≤ 2048 := List.length_take_le _ _
  exact (work_tracker (k := s.trk.push x) id fun _ => hbuffer).trans
    (work_capture fun _ => Nat.min_le_left _ _)

theorem work_hopBoundary (s : State) (stamp : Word) : BlockWork s (hopBoundary s stamp) := by
  have hstores : (s.trk.hop s.setup.active.general stamp).history = s.trk.history ∧
      (s.trk.hop s.setup.active.general stamp).buffer = s.trk.buffer := by
    unfold Tracker.hop
    split
    · exact ⟨rfl, rfl⟩
    · exact ⟨rfl, rfl⟩
  exact (work_tracker (k := s.trk.hop s.setup.active.general stamp) (by rw [hstores.1]; exact id)
    (by rw [hstores.2]; exact id)).trans (work_report id)

theorem work_placePositions (xs : List Sample) (stamp : Word) (s : State) :
    BlockWork s (placePositions xs stamp s) := by
  induction xs generalizing stamp s with
  | nil => exact BlockWork.refl s
  | cons x rest ih =>
    have hplaced : BlockWork s (placePosition s x stamp) := by
      unfold placePosition
      split
      · exact (work_placeSample s x).trans (work_hopBoundary _ stamp)
      · exact work_placeSample s x
    exact hplaced.trans (ih _ _)

theorem work_setOffset (s : State) (slot : Nat) : BlockWork s (setOffset s slot) :=
  work_capture fun _ => Nat.zero_le _

theorem work_clearTracker (s : State) : BlockWork s (clearTracker s) :=
  work_tracker (fun _ => Nat.zero_le _) fun _ => Nat.zero_le _

theorem work_parkVoices (s : State) : BlockWork s (parkVoices s) :=
  work_mapVoices (fun _ _ h => parkRecord_consistent h) s

theorem work_entryTests (s : State) : BlockWork s (entryTests s) :=
  BlockWork.foldl (fun s _ => work_setVoice fun h => entryTest_consistent h s) _ s

theorem work_captureWrite (s : State) (a : Addr) (slot size : Nat) (x : Sample) :
    BlockWork s (captureWrite s a slot size x) := by
  have hplaced (s : State) (xs : List Sample) (n : Nat) :
      BlockWork s (advanceCount (placeFrom s xs) n) :=
    (work_placePositions xs _ s).trans (work_advanceCount _ n)
  unfold captureWrite
  split
  · exact ((work_setOffset s slot).trans (hplaced _ _ _)).trans (work_entryTests _)
  · dsimp only
    split
    · exact (hplaced s _ _).trans (work_entryTests _)
    · split
      · exact ((hplaced s _ _).trans (work_raiseEvent _ _)).trans (work_entryTests _)
      · split
        · exact (((((work_clearTracker s).trans (work_parkVoices _)).trans
            (work_setOffset _ slot)).trans (hplaced _ _ _)).trans (work_raiseEvent _ _)).trans
            (work_entryTests _)
        · exact work_raiseEvent _ _

end Sys2Proof.Machine
end

section
/-! PROOFS. What processor cycles, tap reads, commands and the owners of part writes keep. -/

namespace Sys2Proof.Machine

/-! ### The relation of a cycle's work -/

/-- Nothing changes but PD, the blocks' own fields, the bus path but for its port, and the Setup Unit but for
the active setup and the engine state. -/
def cycleOnly (s t : State) : Prop :=
  t = { s with
    pd := t.pd, bus := { t.bus with port := s.bus.port }, cap := t.cap, trk := t.trk, pln := t.pln,
    vce := t.vce, crx := t.crx, csc := t.csc, rpt := t.rpt,
    setup := { t.setup with active := s.setup.active, engine := s.setup.engine } }

/-- What a cycle's work keeps, whichever part of it: its frame, the queue's oldest entry, and the
invariants. -/
structure CycleWork (s t : State) : Prop where
  frame : cycleOnly s t
  oldest : ∀ e, s.bus.queue.head? = some e → t.bus.queue.head? = some e
  voices : voicesConsistent s → voicesConsistent t
  capacity : withinCapacity s → withinCapacity t

theorem cycleOnly_trans {s t u : State} (h₁ : cycleOnly s t) (h₂ : cycleOnly t u) :
    cycleOnly s u := by
  obtain ⟨_, _, _, _, ⟨_, _, _, _⟩, _, ⟨_, _, _, _, _⟩, _, _, _, _, _, _, _⟩ := s
  obtain ⟨_, _, _, _, ⟨_, _, _, _⟩, _, ⟨_, _, _, _, _⟩, _, _, _, _, _, _, _⟩ := t
  obtain ⟨_, _, _, _, ⟨_, _, _, _⟩, _, ⟨_, _, _, _, _⟩, _, _, _, _, _, _, _⟩ := u
  simp only [cycleOnly, State.mk.injEq, BusPath.mk.injEq, SetupUnit.mk.injEq, true_and, and_true]
    at h₁ h₂ ⊢
  simp only [h₁, h₂, and_self]

theorem blocksOnly.cycleOnly {s t : State} (h : blocksOnly s t) : cycleOnly s t := by
  obtain ⟨_, _, _, _, ⟨_, _, _, _⟩, _, ⟨_, _, _, _, _⟩, _, _, _, _, _, _, _⟩ := s
  obtain ⟨_, _, _, _, ⟨_, _, _, _⟩, _, ⟨_, _, _, _, _⟩, _, _, _, _, _, _, _⟩ := t
  simp only [blocksOnly, State.mk.injEq, BusPath.mk.injEq, SetupUnit.mk.injEq] at h
  simp only [Machine.cycleOnly, h]

/-- A tap read whose claims alone change stays consistent. -/
theorem claimsOnly_consistent {c d : Option Cycle} (h : claimsOnly c d)
    (hc : ∀ r, c = some (.tap r) → r.consistent) : ∀ r, d = some (.tap r) → r.consistent := by
  obtain rfl | ⟨r, k, rfl, rfl⟩ := h
  · exact hc
  · intro r' hr
    simp only [Option.some.injEq, Cycle.tap.injEq] at hr
    subst hr
    exact hc r rfl

theorem BlockWork.voicesConsistent {s t : State} (h : BlockWork s t) (hs : voicesConsistent s) :
    voicesConsistent t :=
  ⟨h.voices hs.1, claimsOnly_consistent h.cycle hs.2⟩

theorem BlockWork.cycleWork {s t : State} (h : BlockWork s t) : CycleWork s t :=
  ⟨h.frame.cycleOnly, fun e he => by rw [h.queue]; exact he, h.voicesConsistent, h.capacity⟩

namespace CycleWork

theorem refl (s : State) : CycleWork s s := (BlockWork.refl s).cycleWork

theorem trans {s t u : State} (h₁ : CycleWork s t) (h₂ : CycleWork t u) : CycleWork s u :=
  ⟨cycleOnly_trans h₁.frame h₂.frame, fun e he => h₂.oldest e (h₁.oldest e he),
    h₂.voices ∘ h₁.voices, h₂.capacity ∘ h₁.capacity⟩

theorem pending {s t : State} (h : CycleWork s t) : t.pending = s.pending := by rw [h.frame]
theorem resetLow {s t : State} (h : CycleWork s t) : t.resetLow = s.resetLow := by rw [h.frame]
theorem mem {s t : State} (h : CycleWork s t) : t.mem = s.mem := by rw [h.frame]
theorem map {s t : State} (h : CycleWork s t) : t.map = s.map := by rw [h.frame]
theorem active {s t : State} (h : CycleWork s t) : t.setup.active = s.setup.active := by rw [h.frame]
theorem port {s t : State} (h : CycleWork s t) : t.bus.port = s.bus.port := by rw [h.frame]

end CycleWork

/-! ### The cycle held, requests and the queue -/

/-- The cycle replaced by one that is no tap read. -/
theorem cycle_set {s : State} {c : Option Cycle} (h : ∀ r, c ≠ some (.tap r)) :
    CycleWork s { s with bus := { s.bus with cycle := c } } :=
  ⟨rfl, fun _ => id, fun hs => ⟨hs.1, fun r hr => absurd hr (h r)⟩, id⟩

theorem cycle_releaseCycle (s : State) : CycleWork s (releaseCycle s) := cycle_set (by simp)

theorem cycle_endCycle (s : State) (d : Option Word) : CycleWork s (endCycle s d) :=
  ((work_pd s d).cycleWork).trans (cycle_set (by simp))

/-- The command in progress and the status word being written are the Setup Unit's own. -/
theorem cycle_setup {s : State} (c : Option Command) (w : Option StatusWrite) (u : Setup) :
    CycleWork s { s with setup := { s.setup with command := c, status := w, shadow := u } } :=
  ⟨rfl, fun _ => id, id, id⟩

/-- The Report Unit's own values, the event queue kept. -/
theorem cycle_report {s t : State} (ht : t = { s with rpt := t.rpt })
    (hq : t.rpt.queue = s.rpt.queue) : CycleWork s t := by
  rw [ht]
  exact (work_report fun h => by rw [hq]; exact h).cycleWork

/-- Requests replaced, the refusal writes among them no more than one. -/
theorem cycle_requests {s : State} {ws : List PartWrite}
    (h : (s.bus.requests.filter fun w => decide (w.owner = .refusal)).length ≤ 1 →
      (ws.filter fun w => decide (w.owner = .refusal)).length ≤ 1) :
    CycleWork s { s with bus := { s.bus with requests := ws } } :=
  ⟨rfl, fun _ => id, id, fun ⟨queue, events, cues, records, samples, fill, refusals, message⟩ =>
    ⟨queue, events, cues, records, samples, fill, h refusals, message⟩⟩

/-- Part writes that are no refusal write are requested freely. -/
theorem cycle_requestWrites (s : State) {ws : List PartWrite} (h : ∀ w ∈ ws, w.owner ≠ .refusal) :
    CycleWork s (requestWrites s ws) := by
  refine cycle_requests fun hone => ?_
  have hnone : ws.filter (fun w => decide (w.owner = .refusal)) = [] :=
    List.filter_eq_nil_iff.mpr fun w hw => by simpa using h w hw
  rw [List.filter_append, hnone, List.append_nil]
  exact hone

theorem cycle_requestWrite (s : State) {w : PartWrite} (h : w.owner ≠ .refusal) :
    CycleWork s (requestWrite s w) :=
  cycle_requestWrites s (ws := [w]) (by simpa using h)

/-- A refusal write takes the place of the one requested, or is the only one (R165). -/
theorem cycle_requestRefusal (s : State) {w : PartWrite} (h : w.owner = .refusal) :
    CycleWork s (requestRefusal s w) := by
  unfold requestRefusal
  split
  · refine cycle_requests fun hone => ?_
    have hsame (ws : List PartWrite) :
        ((ws.map fun x => if x.owner = .refusal then w else x).filter
          fun x => decide (x.owner = .refusal)).length =
          (ws.filter fun x => decide (x.owner = .refusal)).length := by
      induction ws with
      | nil => rfl
      | cons x rest ih =>
        by_cases hx : x.owner = .refusal
        · simp [hx, h, ih]
        · simp [hx, ih]
    rw [hsame]
    exact hone
  · rename_i hnone
    refine cycle_requests fun _ => ?_
    have hempty : s.bus.requests.filter (fun x => decide (x.owner = .refusal)) = [] :=
      List.filter_eq_nil_iff.mpr fun x hx hr => hnone (List.any_eq_true.mpr ⟨x, hx, hr⟩)
    simp [hempty, h]

/-- A write joins a queue with room for it. -/
theorem cycle_postWrite {s : State} (h : s.bus.queue.length < 8) (a : Addr) (d : Word) :
    CycleWork s (postWrite s a d) :=
  ⟨rfl, fun e he => by
      show (s.bus.queue ++ [(⟨a, d⟩ : QueueEntry)]).head? = some e
      rw [List.head?_append, he]; rfl,
    id, fun ⟨_, events, cues, records, samples, fill, refusals, message⟩ =>
      ⟨by simpa using h, events, cues, records, samples, fill, refusals, message⟩⟩

/-! ### Writes -/

theorem cycle_endCommand (s : State) (w : StatusWrite) : CycleWork s (endCommand s w) :=
  (cycle_setup none (some w) s.setup.shadow).trans (cycle_requestWrite _ (by simp))

theorem cycle_takeCommand (s : State) (d : Word) : CycleWork s (takeCommand s d) := by
  unfold takeCommand
  split
  · exact cycle_requestRefusal s rfl
  · split
    · exact cycle_endCommand s _
    · exact cycle_endCommand s _
    · exact cycle_setup _ s.setup.status s.setup.shadow

theorem cycle_takeConsumer (s : State) (v : Word) : CycleWork s (takeConsumer s v) :=
  cycle_report rfl rfl

theorem cycle_raiseEvent (s : State) (e : Event) : CycleWork s (raiseEvent s e) :=
  (work_raiseEvent s e).cycleWork

/-- A write is taken with room in the queue wherever it would be posted (R149). -/
theorem cycle_takeWrite {s : State} {place : Option (Role × Nat)} {d : Word}
    (hroom : wouldPost s place d = true → s.bus.queue.length < 8) (a : Addr) :
    CycleWork s (takeWrite s place a d) := by
  have hpost (h : wouldPost s place d = true) : CycleWork s (postWrite s a d) :=
    cycle_postWrite (hroom h) a d
  unfold takeWrite
  split
  · exact hpost rfl
  · exact hpost rfl
  · rename_i offset
    unfold takeControlWrite
    split
    · rename_i h
      exact (hpost (by simp [wouldPost, h])).trans (cycle_takeCommand _ d)
    · split
      · exact cycle_raiseEvent s _
      · rename_i h
        have hposts : CycleWork s (postWrite s a d) := hpost (by simpa [wouldPost] using h)
        split
        · exact hposts.trans (cycle_setup s.setup.command s.setup.status _)
        · exact hposts
  · unfold takeInputWrite
    split
    · exact (hpost rfl).trans (work_captureWrite _ _ _ _ _).cycleWork
    · exact hpost rfl
    · exact hpost rfl
  · exact cycle_raiseEvent s _
  · unfold takeReportWrite
    split
    · rename_i hone
      split
      · rename_i htaken
        exact (hpost (by simp [wouldPost, hone, htaken])).trans (cycle_takeConsumer _ d)
      · exact cycle_raiseEvent s _
    · exact cycle_raiseEvent s _
  · exact cycle_raiseEvent s _

theorem cycle_presentWrite (s : State) (a : Addr) (d : Word) : CycleWork s (presentWrite s a d) := by
  refine (cycle_releaseCycle s).trans ?_
  have hreleased : presentWrite s a d = presentWrite (releaseCycle s) a d := rfl
  rw [hreleased]
  generalize releaseCycle s = u
  unfold presentWrite
  refine (cycle_releaseCycle u).trans ?_
  generalize releaseCycle u = v
  dsimp only
  split
  · exact cycle_set (by simp)
  · split
    · exact cycle_set (by simp)
    · rename_i hroom
      refine cycle_takeWrite (fun hposts => ?_) a
      simpa [hposts, queueFull, Config.postQueueSize] using hroom

/-! ### Tap reads -/

/-- The frame of a plan keeps every capacity but the event queue's. -/
theorem planOnly.capacity {s t : State} (h : planOnly s t)
    (hevents : s.rpt.queue.length ≤ 8 → t.rpt.queue.length ≤ 8) (hs : withinCapacity s) :
    withinCapacity t := by
  obtain ⟨queue, events, cues, records, samples, fill, refusals, message⟩ := hs
  unfold withinCapacity
  rw [h.queue, h.csc, h.trk, h.cap, h.requests, h.crx]
  exact ⟨queue, hevents events, cues, records, samples, fill, refusals, message⟩

theorem raiseEvents_planOnly (s : State) (es : List Event) : planOnly s (raiseEvents s es) :=
  (raiseEvents_eventsOnly es s).planOnly

/-- Raising events leaves the voice records alone. -/
theorem raiseEvents_vce (s : State) (es : List Event) : (raiseEvents s es).vce = s.vce := by
  rw [raiseEvents_eventsOnly es s]

/-- Records set one after another, each consistent. -/
theorem work_applyMoves {moved : List (Fin 4 × VoiceRecord)} (h : ∀ m ∈ moved, m.2.consistent)
    (s : State) : BlockWork s (applyMoves s moved) := by
  unfold applyMoves
  induction moved generalizing s with
  | nil => exact BlockWork.refl s
  | cons m rest ih =>
    exact (work_setVoice fun _ => h m (List.mem_cons_self ..)).trans
      (ih (fun x hx => h x (List.mem_cons_of_mem _ hx)) _)

theorem applyMoves_planOnly (moved : List (Fin 4 × VoiceRecord)) (s : State) :
    planOnly s (applyMoves s moved) :=
  planOnly_foldl (fun s (m : Fin 4 × VoiceRecord) => setVoice_planOnly s m.1 m.2) _ s

theorem work_applyClaims (s : State) (claims : List (Fin 4 × Claim)) :
    BlockWork s (applyClaims s claims) :=
  BlockWork.foldl (fun s (c : Fin 4 × Claim) => work_takeClaim s c.1 c.2) _ s

theorem applyClaims_planOnly (s : State) (claims : List (Fin 4 × Claim)) :
    planOnly s (applyClaims s claims) :=
  planOnly_foldl (fun s (c : Fin 4 × Claim) => setVoice_planOnly s c.1 _) _ s

/-- What a tap read in flight has come to, state and read: a plan's frame on the blocks, the cycle held left as
it was, and the read's records consistent. -/
structure TapProgress (s : State) (x : State × TapRead) : Prop where
  events : eventsOnly s x.1
  work : BlockWork s x.1
  read : (∀ v, (voiceOf s v).consistent) → x.2.consistent

theorem finishVoice_progress {s : State} {r : TapRead} {w : VoiceWork}
    (hmoved : ∀ m ∈ r.moved, m.2.consistent) (hw : w.record.consistent) (hp : w.record.p ≠ none) :
    TapProgress s (finishVoice s r w) := by
  refine ⟨raiseEvents_eventsOnly _ s, work_raiseEvents s _, fun _ => ⟨fun m hm => ?_, ?_⟩⟩
  · rcases List.mem_append.mp hm with hm | hm
    · exact hmoved m hm
    · rw [List.mem_singleton.mp hm]
      dsimp only
      have hr : ∀ b, ({ w.record with clipped := b } : VoiceRecord).consistent :=
        fun b => consistent_congr hw rfl rfl rfl rfl rfl rfl
      split
      · exact streamMoves_consistent (hr (_ || _)) hp s r.period
      · exact hr _
  · intro x hx
    exact absurd hx (by simp [finishVoice])

theorem runVoices_progress (todo : List (Fin 4)) (s : State) (r : TapRead)
    (hs : ∀ v, (voiceOf s v).consistent) (hmoved : ∀ m ∈ r.moved, m.2.consistent) :
    TapProgress s (runVoices todo s r) := by
  induction todo generalizing s r with
  | nil => exact ⟨eventsOnly_refl s, BlockWork.refl s, fun _ => ⟨hmoved, by simp [runVoices]⟩⟩
  | cons v rest ih =>
    unfold runVoices
    split
    · exact ih s r hs hmoved
    · rename_i p hp
      have hchecked := hardCheck_consistent (hs v) (by rw [hp]; simp) s
      have hbegun : BlockWork s (beginVoice s r v).1 := work_raiseEvents s _
      have hraised : eventsOnly s (beginVoice s r v).1 := raiseEvents_eventsOnly _ s
      dsimp only
      split
      · have hfinished : TapProgress (beginVoice s r v).1
            (finishVoice (beginVoice s r v).1 r (beginVoice s r v).2) :=
          finishVoice_progress hmoved hchecked.1 hchecked.2
        have hconsistent := hbegun.voices hs
        have hmore := ih _ _ (hfinished.work.voices hconsistent) (hfinished.read hconsistent).1
        exact ⟨eventsOnly_trans hraised (eventsOnly_trans hfinished.events hmore.events),
          hbegun.trans (hfinished.work.trans hmore.work),
          fun _ => hmore.read (hfinished.work.voices hconsistent)⟩
      · refine ⟨hraised, hbegun, fun _ => ⟨hmoved, fun w hw => ?_⟩⟩
        simp only [Option.some.injEq] at hw
        subst hw
        exact hchecked

theorem formatClip_work (s : State) (r : TapRead) :
    BlockWork s (formatClip s r).1 ∧ planOnly s (formatClip s r).1 := by
  unfold formatClip
  split
  · exact ⟨BlockWork.refl s, planOnly_refl s⟩
  · exact ⟨work_raiseEvents s _, raiseEvents_planOnly s _⟩

theorem formatClip_consistent (s : State) {r : TapRead} (h : ∀ m ∈ r.moved, m.2.consistent) :
    ∀ m ∈ (formatClip s r).2, m.2.consistent := by
  unfold formatClip
  split
  · exact h
  · intro m hm
    obtain ⟨x, hx, rfl⟩ := List.mem_map.mp hm
    exact consistent_congr (h x hx) rfl rfl rfl rfl rfl rfl

theorem mixClip_work (s : State) (r : TapRead) :
    BlockWork s (mixClip s r) ∧ planOnly s (mixClip s r) := by
  unfold mixClip
  split
  · exact ⟨BlockWork.refl s, planOnly_refl s⟩
  · exact ⟨(work_raiseEvents s _).trans ⟨rfl, claimsOnly_refl _, id, id⟩,
      planOnly_trans (raiseEvents_planOnly s _) rfl⟩

theorem endCycle_planOnly (s : State) (d : Option Word) : planOnly s (endCycle s d) := rfl

theorem completeTap_planOnly (s : State) (r : TapRead) : planOnly s (completeTap s r) := by
  have hends (u : State) (d : Option Word) (moved : List (Fin 4 × VoiceRecord)) :
      planOnly u (applyClaims (applyMoves (endCycle u d) moved) r.claims) :=
    planOnly_trans (endCycle_planOnly u d)
      (planOnly_trans (applyMoves_planOnly moved _) (applyClaims_planOnly _ r.claims))
  unfold completeTap
  split
  · exact planOnly_trans (mixClip_work s r).2 (hends _ _ _)
  · exact planOnly_trans (formatClip_work s r).2 (hends _ _ _)

theorem cycle_completeTap {s : State} {r : TapRead} (h : ∀ m ∈ r.moved, m.2.consistent) :
    CycleWork s (completeTap s r) := by
  have hends (u : State) (d : Option Word) {moved : List (Fin 4 × VoiceRecord)}
      (hmoved : ∀ m ∈ moved, m.2.consistent) :
      CycleWork u (applyClaims (applyMoves (endCycle u d) moved) r.claims) :=
    (cycle_endCycle u d).trans ((work_applyMoves hmoved _).trans (work_applyClaims _ _)).cycleWork
  unfold completeTap
  split
  · exact (mixClip_work s r).1.cycleWork.trans (hends _ _ h)
  · exact (formatClip_work s r).1.cycleWork.trans (hends _ _ (formatClip_consistent s h))

theorem settleTap_planOnly (x : State × TapRead) : planOnly x.1 (settleTap x) := by
  unfold settleTap
  split
  · exact completeTap_planOnly x.1 x.2
  · rfl

/-- A tap read completed, or held for its next fetch. -/
theorem cycle_settleTap {x : State × TapRead} (h : x.2.consistent) : CycleWork x.1 (settleTap x) := by
  unfold settleTap
  split
  · exact cycle_completeTap h.1
  · exact ⟨rfl, fun _ => id, fun hs => ⟨hs.1, fun r hr => by
      simp only [Option.some.injEq, Cycle.tap.injEq] at hr
      exact hr ▸ h⟩, id⟩

/-- The frame and the capacities of a tap read's work hold whatever its records; their consistency follows
where they were consistent. -/
theorem cycleWork_of_consistent {s t : State} (hframe : planOnly s t)
    (hevents : s.rpt.queue.length ≤ 8 → t.rpt.queue.length ≤ 8)
    (hvoices : voicesConsistent s → CycleWork s t) : CycleWork s t :=
  ⟨hframe.blocksOnly.cycleOnly, fun e he => by rw [hframe.queue]; exact he,
    fun hs => (hvoices hs).voices hs, hframe.capacity hevents⟩

theorem raiseEvents_queue_le {s : State} (es : List Event) (h : s.rpt.queue.length ≤ 8) :
    (raiseEvents s es).rpt.queue.length ≤ 8 := by
  unfold raiseEvents
  induction es generalizing s with
  | nil => exact h
  | cons e rest ih => exact ih (raiseEvent_queue_le h e)

theorem runVoices_events (todo : List (Fin 4)) (s : State) (r : TapRead) :
    eventsOnly s (runVoices todo s r).1 ∧
      (s.rpt.queue.length ≤ 8 → (runVoices todo s r).1.rpt.queue.length ≤ 8) := by
  induction todo generalizing s r with
  | nil => exact ⟨eventsOnly_refl s, id⟩
  | cons v rest ih =>
    have hbegun : eventsOnly s (beginVoice s r v).1 ∧
        (s.rpt.queue.length ≤ 8 → (beginVoice s r v).1.rpt.queue.length ≤ 8) :=
      ⟨raiseEvents_eventsOnly _ s, raiseEvents_queue_le _⟩
    unfold runVoices
    split
    · exact ih s r
    · dsimp only
      split
      · obtain ⟨hframe, hevents⟩ := ih (finishVoice (beginVoice s r v).1 r (beginVoice s r v).2).1
          (finishVoice (beginVoice s r v).1 r (beginVoice s r v).2).2
        exact ⟨eventsOnly_trans hbegun.1 (eventsOnly_trans (raiseEvents_eventsOnly _ _) hframe),
          fun h => hevents (raiseEvents_queue_le _ (hbegun.2 h))⟩
      · exact hbegun

theorem applyMoves_rpt (s : State) (moved : List (Fin 4 × VoiceRecord)) :
    (applyMoves s moved).rpt = s.rpt := by
  unfold applyMoves
  induction moved generalizing s with
  | nil => rfl
  | cons m rest ih => exact (ih _).trans rfl

theorem applyClaims_rpt (s : State) (claims : List (Fin 4 × Claim)) :
    (applyClaims s claims).rpt = s.rpt := by
  unfold applyClaims
  induction claims generalizing s with
  | nil => rfl
  | cons c rest ih => exact (ih _).trans rfl

theorem settleTap_queue_le (x : State × TapRead) (h : x.1.rpt.queue.length ≤ 8) :
    (settleTap x).rpt.queue.length ≤ 8 := by
  unfold settleTap
  split
  · unfold completeTap
    split
    · rw [applyClaims_rpt, applyMoves_rpt, endCycle_rpt]
      unfold mixClip
      split
      · exact h
      · exact raiseEvents_queue_le _ h
    · rw [applyClaims_rpt, applyMoves_rpt, endCycle_rpt]
      unfold formatClip
      split
      · exact h
      · exact raiseEvents_queue_le _ h
  · exact h

theorem settleTap_runVoices_planOnly (todo : List (Fin 4)) (s : State) (r : TapRead) :
    planOnly s (settleTap (runVoices todo s r)) :=
  planOnly_trans (runVoices_events todo s r).1.planOnly (settleTap_planOnly _)

/-- Voices run as far as they can, from records that are consistent where the voices' are. -/
theorem cycle_settle_runVoices (todo : List (Fin 4)) {s : State} {r : TapRead}
    (h : voicesConsistent s → ∀ m ∈ r.moved, m.2.consistent) :
    CycleWork s (settleTap (runVoices todo s r)) :=
  cycleWork_of_consistent (settleTap_runVoices_planOnly todo s r)
    (fun hs => settleTap_queue_le _ ((runVoices_events todo s r).2 hs)) fun hs => by
      have hprogress := runVoices_progress todo s r hs.1 (h hs)
      exact hprogress.work.cycleWork.trans (cycle_settleTap (hprogress.read hs.1))

theorem continueTap_planOnly (s : State) (r : TapRead) (word : Word) :
    planOnly s (continueTap s r word) := by
  unfold continueTap
  split
  · exact settleTap_planOnly (s, r)
  · dsimp only
    split
    · exact planOnly_trans (raiseEvents_planOnly s _) (settleTap_runVoices_planOnly _ _ _)
    · exact settleTap_planOnly (s, _)

theorem continueTap_queue_le (s : State) (r : TapRead) (word : Word) (h : s.rpt.queue.length ≤ 8) :
    (continueTap s r word).rpt.queue.length ≤ 8 := by
  unfold continueTap
  split
  · exact settleTap_queue_le _ h
  · dsimp only
    split
    · exact settleTap_queue_le _ ((runVoices_events _ _ _).2 (raiseEvents_queue_le _ h))
    · exact settleTap_queue_le _ h

/-- A fetch's word goes to the tap read in flight, which works on consistent records. -/
theorem cycle_continueTap {s : State} {r : TapRead} (hr : s.bus.cycle = some (.tap r)) (word : Word) :
    CycleWork s (continueTap s r word) := by
  refine cycleWork_of_consistent (continueTap_planOnly s r word) (continueTap_queue_le s r word)
    fun hs => ?_
  obtain ⟨hmoved, hwork⟩ := hs.2 r hr
  unfold continueTap
  split
  · exact cycle_settleTap (x := (s, r)) (hs.2 r hr)
  · rename_i w hw
    obtain ⟨hrecord, hposition⟩ := hwork w hw
    dsimp only
    split
    · have hfinished : TapProgress s (finishVoice s r (VoiceWork.served s.bus.queue
          { w with words := w.words ++ [word], left := w.left.drop 1 })) :=
        finishVoice_progress hmoved hrecord hposition
      exact hfinished.work.cycleWork.trans
        (cycle_settle_runVoices _ fun _ => (hfinished.read hs.1).1)
    · refine cycle_settleTap (x := (s, _)) ⟨hmoved, fun x hx => ?_⟩
      simp only [Option.some.injEq] at hx
      subst hx
      exact ⟨hrecord, hposition⟩

/-! ### Reads -/

theorem cycle_clearVoiceFlags (s : State) (v : Fin 4) : CycleWork s (clearVoiceFlags s v) :=
  (work_setVoice (v := v)
    (r := { voiceOf s v with clipped := false, targetChanged := false })
    fun h => consistent_congr h rfl rfl rfl rfl rfl rfl).cycleWork

theorem cycle_statusRead (s : State) (offset : Nat) : CycleWork s (statusRead s offset) := by
  have hvoice (d : Option Word) (v : Fin 4) : CycleWork s (clearVoiceFlags (endCycle s d) v) :=
    (cycle_endCycle s d).trans (cycle_clearVoiceFlags _ v)
  have hblock {u : State} {d : Option Word} (h : BlockWork (endCycle s d) u) : CycleWork s u :=
    (cycle_endCycle s d).trans h.cycleWork
  unfold statusRead
  split
  · exact hvoice _ 0
  · exact hvoice _ 1
  · exact hvoice _ 2
  · exact hvoice _ 3
  · exact hblock (work_tracker id id)
  · exact cycle_endCycle s _
  · exact hblock ⟨rfl, claimsOnly_refl _, id, id⟩
  · exact cycle_endCycle s _
  · exact cycle_endCycle s _
  · exact cycle_endCycle s _

theorem cycle_presentRead (s : State) (a : Addr) : CycleWork s (presentRead s a) := by
  unfold presentRead
  split
  · rename_i offset _
    unfold takeTap
    split
    · exact cycle_statusRead s offset
    · split
      · exact cycle_settle_runVoices _ fun _ m hm => absurd hm List.not_mem_nil
      · exact cycle_endCycle s _
      · exact cycle_endCycle s _
  · unfold memoryRead
    split
    · exact cycle_endCycle s _
    · exact cycle_set (by simp)

/-! ### Records and part writes -/

theorem cycle_startReadyRecord (s : State) : CycleWork s (startReadyRecord s) := by
  rcases startReadyRecord_cases s with ⟨_, h⟩ | ⟨e, rest, _, hqueue, h⟩
  · rw [h]
    exact CycleWork.refl s
  · rw [h]
    refine CycleWork.trans
      (t := { s with rpt := { s.rpt with queue := rest, lost := false, record := some e.kind } })
      (work_report fun hs => ?_).cycleWork (cycle_requestWrites _ ?_)
    · rw [hqueue, List.length_cons] at hs
      exact Nat.le_of_succ_le hs
    · intro w hw
      obtain ⟨i, _, rfl⟩ := List.mem_map.mp hw
      simp [recordWrite]

theorem cycle_afterTapFetch (s : State) : CycleWork s (afterTapFetch s) := by
  rcases afterTapFetch_cases s with h | ⟨_, h⟩
  · rw [h]
    exact CycleWork.refl s
  · rw [h]
    exact cycle_startReadyRecord s

theorem cycle_ringWordDone (s : State) (i : Fin 3) : CycleWork s (ringWordDone s i) := by
  have hwritten : CycleWork s { s with rpt := { s.rpt with ringWritten := true } } :=
    cycle_report rfl rfl
  unfold ringWordDone
  dsimp only
  split
  · split
    · exact hwritten
    · exact hwritten.trans (cycle_endCommand _ _)
  · exact CycleWork.refl s

theorem cycle_statusWordDone (s : State) : CycleWork s (statusWordDone s) := by
  unfold statusWordDone
  split
  · exact CycleWork.refl s
  · exact (cycle_setup s.setup.command none s.setup.shadow).trans (cycle_raiseEvent _ _)

theorem cycle_recordWordDone (s : State) (i : Fin 4) : CycleWork s (recordWordDone s i) := by
  unfold recordWordDone
  split
  · exact cycle_requestWrite s (by simp)
  · exact CycleWork.refl s

theorem cycle_ownerDone (o : PartOwner) (s : State) : CycleWork s (ownerDone o s) := by
  cases o with
  | ringReset i => exact cycle_ringWordDone s i
  | status => exact (cycle_statusWordDone s).trans (cycle_startReadyRecord _)
  | refusal => exact CycleWork.refl s
  | record i => exact cycle_recordWordDone s i
  | producer =>
    have hproduced : CycleWork s (producerDone s) := cycle_report rfl rfl
    exact hproduced.trans (cycle_startReadyRecord _)

theorem ownerDone_still (o : PartOwner) (s : State) :
    (ownerDone o s).cap = s.cap ∧ (ownerDone o s).bus.queue = s.bus.queue := by
  cases o with
  | ringReset i =>
    show (ringWordDone s i).cap = _ ∧ (ringWordDone s i).bus.queue = _
    unfold ringWordDone
    dsimp only
    split
    · split
      · exact ⟨rfl, rfl⟩
      · exact ⟨rfl, rfl⟩
    · exact ⟨rfl, rfl⟩
  | status =>
    show (startReadyRecord (statusWordDone s)).cap = _ ∧ (startReadyRecord (statusWordDone s)).bus.queue = _
    rw [startReadyRecord_cap, startReadyRecord_queue]
    unfold statusWordDone
    split
    · exact ⟨rfl, rfl⟩
    · have hraised := (raiseEvent_eventsOnly { s with setup := { s.setup with status := none } }
        (cmdDoneEvent s ‹_›)).planOnly
      exact ⟨hraised.cap, hraised.queue⟩
  | refusal => exact ⟨rfl, rfl⟩
  | record i =>
    show (recordWordDone s i).cap = _ ∧ (recordWordDone s i).bus.queue = _
    unfold recordWordDone
    split
    · exact ⟨rfl, rfl⟩
    · exact ⟨rfl, rfl⟩
  | producer =>
    show (startReadyRecord (producerDone s)).cap = _ ∧ (startReadyRecord (producerDone s)).bus.queue = _
    rw [startReadyRecord_cap, startReadyRecord_queue]
    exact ⟨rfl, rfl⟩

end Sys2Proof.Machine
end

section
/-! PROOFS. What a command's completion keeps, and every way a row can leave the machine, said once. -/

namespace Sys2Proof.Machine

/-! ### The completion of a command (R163, R167 to R170) -/

/-- Nothing changes but PD, the blocks' own fields, the Setup Unit, window entries 1 to 7, the cycle held and
the requests. -/
def commandOnly (s t : State) : Prop :=
  t = { s with
    pd := t.pd, bus := { s.bus with cycle := t.bus.cycle, requests := t.bus.requests },
    map := { s.map with entries := t.map.entries }, setup := t.setup, cap := t.cap, trk := t.trk,
    pln := t.pln, vce := t.vce, crx := t.crx, csc := t.csc, rpt := t.rpt }

/-- What the completion of a command keeps, whichever part of it. -/
structure CommandWork (s t : State) : Prop where
  frame : commandOnly s t
  cycle : claimsOnly s.bus.cycle t.bus.cycle
  voices : voicesConsistent s → voicesConsistent t
  capacity : withinCapacity s → withinCapacity t

theorem commandOnly_trans {s t u : State} (h₁ : commandOnly s t) (h₂ : commandOnly t u) :
    commandOnly s u := by
  obtain ⟨_, _, _, _, ⟨_, _, _, _⟩, ⟨_, _⟩, _, _, _, _, _, _, _, _⟩ := s
  obtain ⟨_, _, _, _, ⟨_, _, _, _⟩, ⟨_, _⟩, _, _, _, _, _, _, _, _⟩ := t
  obtain ⟨_, _, _, _, ⟨_, _, _, _⟩, ⟨_, _⟩, _, _, _, _, _, _, _, _⟩ := u
  simp only [commandOnly, State.mk.injEq, BusPath.mk.injEq, WindowMap.mk.injEq, true_and, and_true]
    at h₁ h₂ ⊢
  simp only [h₁, h₂, and_self]

theorem blocksOnly.commandOnly {s t : State} (h : blocksOnly s t) : commandOnly s t := by
  obtain ⟨_, _, _, _, ⟨_, _, _, _⟩, ⟨_, _⟩, _, _, _, _, _, _, _, _⟩ := s
  obtain ⟨_, _, _, _, ⟨_, _, _, _⟩, ⟨_, _⟩, _, _, _, _, _, _, _, _⟩ := t
  simp only [blocksOnly, State.mk.injEq, BusPath.mk.injEq, WindowMap.mk.injEq] at h
  simp only [Machine.commandOnly, h]

theorem BlockWork.commandWork {s t : State} (h : BlockWork s t) : CommandWork s t :=
  ⟨h.frame.commandOnly, h.cycle, h.voicesConsistent, h.capacity⟩

namespace CommandWork

theorem trans {s t u : State} (h₁ : CommandWork s t) (h₂ : CommandWork t u) : CommandWork s u :=
  ⟨commandOnly_trans h₁.frame h₂.frame, claimsOnly_trans h₁.cycle h₂.cycle, h₂.voices ∘ h₁.voices,
    h₂.capacity ∘ h₁.capacity⟩

theorem pending {s t : State} (h : CommandWork s t) : t.pending = s.pending := by rw [h.frame]
theorem mem {s t : State} (h : CommandWork s t) : t.mem = s.mem := by rw [h.frame]
theorem entry0 {s t : State} (h : CommandWork s t) : t.map.entry0 = s.map.entry0 := by rw [h.frame]
theorem queue {s t : State} (h : CommandWork s t) : t.bus.queue = s.bus.queue := by rw [h.frame]
theorem port {s t : State} (h : CommandWork s t) : t.bus.port = s.bus.port := by rw [h.frame]

end CommandWork

/-- The Setup Unit and window entries 1 to 7 are a command's to change. -/
theorem command_setup (s : State) (u : SetupUnit) (es : Vector WindowEntry 7) :
    CommandWork s { s with setup := u, map := { s.map with entries := es } } :=
  ⟨rfl, claimsOnly_refl _, id, id⟩

theorem command_copySetup (s : State) : CommandWork s (copySetup s) := command_setup s _ _

theorem command_setEngine (s : State) (e : Engine) : CommandWork s (setEngine s e) :=
  command_setup s _ s.map.entries

theorem work_resetRing (s : State) : BlockWork s (resetRing s) := work_report id

theorem work_emptyEvents (s : State) : BlockWork s (emptyEvents s) := work_report fun _ => Nat.zero_le _

theorem work_startCapture (s : State) : BlockWork s (startCapture s) :=
  work_capture fun _ => Nat.zero_le _

theorem work_startVoices (s : State) (b : Bool) : BlockWork s (startVoices s b) :=
  work_mapVoices (fun _ _ _ => startRecord_consistent _ _ _) s

theorem work_startPlanner (s : State) : BlockWork s (startPlanner s) :=
  (work_planner s _).trans (work_mapPlans _ _)

theorem work_startReceiver (s : State) : BlockWork s (startReceiver s) := by
  unfold startReceiver
  dsimp only
  split
  · exact work_receiver fun h => assembling_congr h rfl
  · exact work_receiver fun _ => assembling_nil rfl

/-- What START and RESTART do at their end: the planner set and re-planned, the receiver set. -/
theorem work_startPlans (s : State) : BlockWork s (startReceiver (replanAll (startPlanner s))) :=
  ((work_startPlanner s).trans (work_replanAll _)).trans (work_startReceiver _)

theorem work_startReports (s : State) : BlockWork s (clearHops (resetRing (emptyEvents s))) :=
  ((work_emptyEvents s).trans (work_resetRing _)).trans (work_report id)

theorem work_startTracker (s : State) :
    BlockWork s (clearTrackerFlags (clearTracker (startCapture s))) :=
  ((work_startCapture s).trans (work_clearTracker _)).trans (work_tracker id id)

theorem work_startRecords (s : State) : BlockWork s (clearMixFlag (startVoices (emptyLists s) true)) :=
  ((work_emptyLists s).trans (work_startVoices _ true)).trans ⟨rfl, claimsOnly_refl _, id, id⟩

/-- START by its parts, in the order of R167. -/
theorem startEffects_eq (s : State) : startEffects s =
    startReceiver (replanAll (startPlanner (clearMixFlag (startVoices (emptyLists
      (clearTrackerFlags (clearTracker (startCapture (clearHops (resetRing (emptyEvents
        (setEngine (copySetup s) .running)))))))) true)))) := rfl

/-- RESTART by its parts (R169). -/
theorem restartEffects_eq (s : State) : restartEffects s =
    startReceiver (replanAll (startPlanner (startVoices (emptyLists
      (clearTracker (startCapture s))) false))) := rfl

theorem command_startEffects (s : State) : CommandWork s (startEffects s) := by
  rw [startEffects_eq]
  exact ((command_copySetup s).trans (command_setEngine _ .running)).trans
    ((((work_startReports _).trans (work_startTracker _)).trans (work_startRecords _)).trans
      (work_startPlans _)).commandWork

theorem work_restartEffects (s : State) : BlockWork s (restartEffects s) := by
  rw [restartEffects_eq]
  exact ((((work_startCapture s).trans (work_clearTracker _)).trans (work_emptyLists _)).trans
    (work_startVoices _ false)).trans (work_startPlans _)

theorem work_stopVoices (s : State) : BlockWork s (stopVoices s) :=
  work_mapVoices (fun _ _ _ => startRecord_consistent _ _ _) s

theorem work_stopPlanner (s : State) : BlockWork s (stopPlanner s) := work_mapPlans s _

/-- What STOP does in RUNNING, once the engine is HALTED (R168). -/
theorem work_stopBlocks (s : State) :
    BlockWork s (stopPlanner (clearTracker (emptyLists (stopVoices s)))) :=
  (((work_stopVoices s).trans (work_emptyLists _)).trans (work_clearTracker _)).trans
    (work_stopPlanner _)

theorem command_stopEffects (s : State) : CommandWork s (stopEffects s) := by
  unfold stopEffects
  split
  · exact (command_setEngine s .halted).trans (work_stopBlocks _).commandWork
  · exact (BlockWork.refl s).commandWork
  · exact (BlockWork.refl s).commandWork

theorem stopEffects_setup (s : State) :
    (stopEffects s).setup.active = s.setup.active ∧ (stopEffects s).map = s.map := by
  unfold stopEffects
  split
  · rw [(work_stopBlocks _).setup, (work_stopBlocks _).map]
    exact ⟨rfl, rfl⟩
  · exact ⟨rfl, rfl⟩
  · exact ⟨rfl, rfl⟩

theorem work_applyRing (s : State) (change : RingChange) : BlockWork s (applyRing s change) := by
  cases change with
  | kept => exact BlockWork.refl s
  | fresh => exact work_resetRing s
  | removed => exact (work_emptyEvents s).trans (work_resetRing _)

theorem work_applyCaptureRestart (s : State) : BlockWork s (applyCaptureRestart s) :=
  (((work_capture (c := { s.cap with offset := none, c := 0, fill := 0 }) fun _ => Nat.zero_le _).trans
    (work_clearTracker _)).trans (work_parkVoices _)).trans (work_raiseEvent _ _)

theorem work_applyModes (s : State) : BlockWork s (applyModes s) := work_mapPlans s _

theorem work_applyFades (s : State) : BlockWork s (applyFades s) :=
  work_mapVoices (fun _ _ h => fitFade_consistent h _) s

theorem command_applyEffects (s : State) : CommandWork s (applyEffects s) := by
  have hcopied := command_copySetup s
  have hmodes (u : State) (change : RingChange) : BlockWork u (applyModes (applyRing u change)) :=
    (work_applyRing u change).trans (work_applyModes _)
  unfold applyEffects
  dsimp only
  split
  · have hplanned {u : State} (hu : CommandWork s u) (change : RingChange) :
        CommandWork s (replanAll (applyModes (applyRing u change))) :=
      hu.trans ((hmodes u change).trans (work_replanAll _)).commandWork
    have hcaptured : CommandWork s
        (if inputChanged s.map.entries s.setup.shadow.windows then
          applyCaptureRestart (copySetup s) else copySetup s) := by
      split
      · exact hcopied.trans (work_applyCaptureRestart _).commandWork
      · exact hcopied
    split
    · exact hplanned hcaptured _
    · exact (hplanned hcaptured _).trans (work_applyFades _).commandWork
  · exact hcopied.trans (hmodes _ _).commandWork
  · exact (BlockWork.refl s).commandWork

theorem command_effects (s : State) (c : Command) : CommandWork s (commandEffects s c).1 := by
  unfold commandEffects
  split <;> dsimp only
  · exact command_startEffects s
  · exact command_applyEffects s
  · exact command_stopEffects s
  · exact (work_restartEffects s).commandWork
  · exact (BlockWork.refl s).commandWork

/-- Part writes other than refusals, requested at a command's end. -/
theorem command_requestWrites (s : State) {ws : List PartWrite} (h : ∀ w ∈ ws, w.owner ≠ .refusal) :
    CommandWork s (requestWrites s ws) :=
  ⟨rfl, claimsOnly_refl _, id, (cycle_requestWrites s h).capacity⟩

theorem command_afterEffects (s : State) (c : Command) (b : Bool) :
    CommandWork s (afterEffects s c b) := by
  unfold afterEffects
  split
  · exact (command_setup s _ s.map.entries).trans (command_requestWrites _ (by simp [ringWords]))
  · exact (command_setup s _ s.map.entries).trans
      (command_requestWrites _ (ws := [⟨.status, _, _⟩]) (by simp))

theorem command_completeCommand (s : State) (c : Command) : CommandWork s (completeCommand s c) :=
  (command_effects s c).trans (command_afterEffects _ c _)

theorem afterEffects_setup (s : State) (c : Command) (b : Bool) :
    (afterEffects s c b).setup.active = s.setup.active ∧ (afterEffects s c b).map = s.map := by
  unfold afterEffects
  split
  · exact ⟨rfl, rfl⟩
  · exact ⟨rfl, rfl⟩

/-- Only START and APPLY copy the shadow setup (R160). -/
theorem commandEffects_setup (s : State) {c : Command} (h₁ : c.code.toNat ≠ 1)
    (h₂ : c.code.toNat ≠ 2) : (commandEffects s c).1.setup.active = s.setup.active ∧
      (commandEffects s c).1.map = s.map := by
  unfold commandEffects
  split <;> dsimp only
  · exact absurd ‹_› h₁
  · exact absurd ‹_› h₂
  · exact stopEffects_setup s
  · have hblocks := work_restartEffects s
    exact ⟨congrArg SetupUnit.active hblocks.setup, hblocks.map⟩
  · exact ⟨rfl, rfl⟩

theorem completeCommand_setup (s : State) {c : Command} (h₁ : c.code.toNat ≠ 1)
    (h₂ : c.code.toNat ≠ 2) : (completeCommand s c).setup.active = s.setup.active ∧
      (completeCommand s c).map = s.map := by
  obtain ⟨hactive, hmap⟩ := afterEffects_setup (commandEffects s c).1 c (commandEffects s c).2
  obtain ⟨hactive', hmap'⟩ := commandEffects_setup s h₁ h₂
  exact ⟨hactive.trans hactive', hmap.trans hmap'⟩

end Sys2Proof.Machine
end

section
/-! PROOFS. Every way a row can leave the machine, said once: the rows that are one processor cycle, and what
every other row comes to. -/

namespace Sys2Proof.Machine

/-! ### The cases -/

/-- What the completion of access `x` leaves before its owner: the port free, and the word of a write
completion in memory; a drain's entry may leave the queue. -/
def portLeft (i : Instr) (s : State) (x : Access) (v : State) : Prop :=
  v = freePort (beginStep s) ∨
    ∃ d, i.isWriteCompletion = true ∧ x.kind.onPort.2 = some d ∧
      (v = storeWord (freePort (beginStep s)) x.kind.onPort.1 d ∨
        v = { storeWord (freePort (beginStep s)) x.kind.onPort.1 d with
          bus := { (freePort (beginStep s)).bus with queue := s.bus.queue.drop 1 } })

/-- The states a row can leave, by what does the work. -/
inductive StepCase (i : Instr) (s : State) : State → Prop where
  /-- The blocks alone work. -/
  | worked {t : State} (work : BlockWork s t) (still : captureStill s t) : StepCase i s t
  /-- A cycle is presented, none or a held write standing before. -/
  | presented {u t : State} (noRead : ∀ a, s.bus.cycle ≠ some (.read a))
      (noTap : ∀ r, s.bus.cycle ≠ some (.tap r)) (work : CycleWork s u)
      (granted : t = u ∨ t = grant u) : StepCase i s t
  /-- A ready record starts. -/
  | recorded : StepCase i s (grant (startReadyRecord (beginStep s)))
  /-- A command completes. -/
  | completed {c : Command} (row : i = .commandCompletion) (command : s.setup.command = some c)
      (ready : canComplete (beginStep s) c = true) :
      StepCase i s (grant (completeCommand (beginStep s) c))
  /-- An access completes at the port. -/
  | access {x : Access} {v u : State} (port : s.bus.port = some x) (left : portLeft i s x v)
      (work : CycleWork v u) (still : u.cap = v.cap) (queue : u.bus.queue = v.bus.queue) :
      StepCase i s (grant u)
  /-- RESET falls. -/
  | fell (row : i = .resetFall) : StepCase i s (fallen (beginStep s))
  /-- RESET rises. -/
  | rose (cwb : BitVec 4) (stn : BitVec 5) (row : i = .resetRise cwb stn) :
      StepCase i s (grant (beginHeld (risen cwb stn (beginStep s))))

theorem stepCase_idle (i : Instr) (s : State) : StepCase i s (beginStep s) :=
  .worked (work_beginStep s) (captureStill_refl s)

/-- Work of the blocks on the state a step begins with. -/
theorem stepCase_worked {i : Instr} {s t : State} (work : BlockWork (beginStep s) t)
    (still : captureStill (beginStep s) t) : StepCase i s t :=
  .worked ((work_beginStep s).trans work) still

/-! ### Processor cycles -/

/-- A row that is a processor cycle: how it is held in reset, and how it is presented (R138, R140). -/
theorem exec_processorCycle {i : Instr} (h : i.isProcessorCycle = true) (s : State) :
    ∃ c present, exec i s = processorCycle c present s ∧ (∀ r, c ≠ .tap r) ∧
      ∀ u, CycleWork u (present u) := by
  have hwrite {i : Instr} (a : Addr) (d : Word) (hi : exec i s = processorWrite a d s) :
      ∃ c present, exec i s = processorCycle c present s ∧ (∀ r, c ≠ .tap r) ∧
        ∀ u, CycleWork u (present u) :=
    ⟨.writeInReset a d, fun u => presentWrite u a d, hi, by simp, fun u => cycle_presentWrite u a d⟩
  have hread {i : Instr} (a : Addr) (hi : exec i s = processorReadCycle a s) :
      ∃ c present, exec i s = processorCycle c present s ∧ (∀ r, c ≠ .tap r) ∧
        ∀ u, CycleWork u (present u) :=
    ⟨.readInReset a, fun u => presentRead u a, hi, by simp, fun u => cycle_presentRead u a⟩
  have hcommand {i : Instr} (d : Word) (hd : i.commandWord? = some d) :
      ∃ c present, exec i s = processorCycle c present s ∧ (∀ r, c ≠ .tap r) ∧
        ∀ u, CycleWork u (present u) := hwrite _ d (exec_commandWord hd s)
  cases i with
  | start _ _ => exact hcommand _ rfl
  | apply _ _ => exact hcommand _ rfl
  | stop _ _ => exact hcommand _ rfl
  | restart _ _ => exact hcommand _ rfl
  | unknownCommand _ => exact hcommand _ rfl
  | setupWrite a d => exact hwrite a d rfl
  | postedWrite a d => exact hwrite a d rfl
  | windowFault a d => exact hwrite a d rfl
  | consumerIndexWrite a d => exact hwrite a d rfl
  | capture a d => exact hwrite a d rfl
  | voiceStreamRead a => exact hread a rfl
  | voicePeekRead a => exact hread a rfl
  | mixStreamRead a => exact hread a rfl
  | mixPeekRead a => exact hread a rfl
  | voiceStatusRead a => exact hread a rfl
  | trackerStatusRead a => exact hread a rfl
  | mixStatusRead a => exact hread a rfl
  | processorRead a => exact hread a rfl
  | _ => exact absurd h (by simp [Instr.isProcessorCycle])

/-- A processor cycle that begins while RESET is low is held (R140). -/
theorem processorCycle_inReset {s : State} (hs : s.bus.cycle = none) (hlow : s.resetLow = true) (c : Cycle)
    (present : State → State) :
    processorCycle c present s = .next (holdCycle (beginStep s) c) := by
  unfold processorCycle
  simp only [beginStep_bus, hs, beginStep_resetLow, hlow]
  rfl

/-- A processor cycle begins only where none is held; it is presented, or in reset held. -/
theorem processorCycle_cases {c : Cycle} {present : State → State} (hc : ∀ r, c ≠ .tap r)
    (hpresent : ∀ u, CycleWork u (present u)) (i : Instr) (s : State) (hs : s.bus.cycle = none) :
    ∃ t, processorCycle c present s = .next t ∧ StepCase i s t := by
  have hbegun := (work_beginStep s).cycleWork
  cases hlow : s.resetLow with
  | true =>
    refine ⟨_, processorCycle_inReset hs hlow c present,
      .presented (by simp [hs]) (by simp [hs]) (hbegun.trans (cycle_set ?_)) (Or.inl rfl)⟩
    simpa using hc
  | false =>
    exact ⟨_, processorCycle_free ⟨hs, hlow⟩ c present,
      .presented (by simp [hs]) (by simp [hs]) (hbegun.trans (hpresent _)) (Or.inr rfl)⟩

/-! ### Completions at the port -/

/-- A completion at the port: the step idles, or the access in progress was the row's own. -/
theorem portStep_cases {i : Instr} {finish : Access → State → Option State} (s : State)
    (hfinish : ∀ x u, s.bus.port = some x → finish x (freePort (beginStep s)) = some u →
      ∃ v, portLeft i s x v ∧ CycleWork v u ∧ u.cap = v.cap ∧ u.bus.queue = v.bus.queue) :
    ∃ t, portStep finish s = .next t ∧ StepCase i s t := by
  unfold portStep
  dsimp only
  split
  · exact ⟨_, rfl, stepCase_idle i s⟩
  · rename_i x hx
    split
    · exact ⟨_, rfl, stepCase_idle i s⟩
    · split
      · exact ⟨_, rfl, stepCase_idle i s⟩
      · rename_i u hu
        obtain ⟨v, hleft, hwork, hcap, hqueue⟩ := hfinish x u hx hu
        exact ⟨_, rfl, .access hx hleft hwork hcap hqueue⟩

theorem finishProcessorRead_left {i : Instr} {s u : State} {x : Access}
    (h : finishProcessorRead x (freePort (beginStep s)) = some u) :
    ∃ v, portLeft i s x v ∧ CycleWork v u ∧ u.cap = v.cap ∧ u.bus.queue = v.bus.queue := by
  refine ⟨_, Or.inl rfl, ?_⟩
  unfold finishProcessorRead at h
  split at h
  · simp only [Option.some.injEq] at h
    subst h
    split
    · exact ⟨cycle_endCycle _ _, rfl, rfl⟩
    · exact ⟨CycleWork.refl _, rfl, rfl⟩
  · exact absurd h (by simp)

theorem finishTapFetch_left {i : Instr} {s u : State} {x : Access}
    (h : finishTapFetch x (freePort (beginStep s)) = some u) :
    ∃ v, portLeft i s x v ∧ CycleWork v u ∧ u.cap = v.cap ∧ u.bus.queue = v.bus.queue := by
  refine ⟨_, Or.inl rfl, ?_⟩
  unfold finishTapFetch at h
  split at h
  · rename_i a r _ hr
    simp only [Option.some.injEq] at h
    subst h
    split
    · have hread := continueTap_planOnly (freePort (beginStep s)) r (loadWord (freePort (beginStep s)) a)
      refine ⟨(cycle_continueTap hr _).trans (cycle_afterTapFetch _), ?_⟩
      rcases afterTapFetch_cases (continueTap (freePort (beginStep s)) r
        (loadWord (freePort (beginStep s)) a)) with h | ⟨_, h⟩
      · rw [h]
        exact ⟨hread.cap, hread.queue⟩
      · rw [h, startReadyRecord_cap, startReadyRecord_queue]
        exact ⟨hread.cap, hread.queue⟩
    · exact ⟨CycleWork.refl _, rfl, rfl⟩
  · simp only [Option.some.injEq] at h
    subst h
    exact ⟨CycleWork.refl _, rfl, rfl⟩
  · exact absurd h (by simp)

theorem finishDrain_left {s u : State} {x : Access}
    (h : finishDrain x (freePort (beginStep s)) = some u) :
    ∃ v, portLeft .drain s x v ∧ CycleWork v u ∧ u.cap = v.cap ∧ u.bus.queue = v.bus.queue := by
  obtain ⟨kind, live⟩ := x
  unfold finishDrain at h
  cases kind with
  | drain e =>
    simp only [Option.some.injEq] at h
    subst h
    refine ⟨_, Or.inr ⟨e.data, rfl, rfl, ?_⟩, CycleWork.refl _, rfl, rfl⟩
    cases live with
    | true => exact Or.inr rfl
    | false => exact Or.inl rfl
  | processorRead | tapFetch | partWrite => exact absurd h (by simp)

theorem finishPartWrite_left {i : Instr} (hi : i.isWriteCompletion = true) {owned : PartOwner → Bool}
    {s u : State} {x : Access} (h : finishPartWrite owned ownerDone x (freePort (beginStep s)) = some u) :
    ∃ v, portLeft i s x v ∧ CycleWork v u ∧ u.cap = v.cap ∧ u.bus.queue = v.bus.queue := by
  obtain ⟨kind, live⟩ := x
  unfold finishPartWrite at h
  cases kind with
  | partWrite w =>
    dsimp only at h
    split at h
    · simp only [Option.some.injEq] at h
      subst h
      refine ⟨_, Or.inr ⟨w.data, hi, rfl, Or.inl rfl⟩, ?_⟩
      split
      · exact ⟨cycle_ownerDone _ _, ownerDone_still _ _⟩
      · exact ⟨CycleWork.refl _, rfl, rfl⟩
    · exact absurd h (by simp)
  | processorRead | tapFetch | drain => exact absurd h (by simp)

/-! ### The other rows -/

/-- A held write presented again, or the step idling. -/
theorem afterRoom_cases (s : State) :
    ∃ t, exec .writeTakenAfterRoom s = .next t ∧ StepCase .writeTakenAfterRoom s t := by
  show ∃ t, execWriteTakenAfterRoom s = .next t ∧ _
  unfold execWriteTakenAfterRoom
  dsimp only
  split
  · rename_i a d hheld
    rw [beginStep_bus] at hheld
    split
    · exact ⟨_, rfl, stepCase_idle _ s⟩
    · exact ⟨_, rfl, .presented (by simp [hheld]) (by simp [hheld])
        ((work_beginStep s).cycleWork.trans (cycle_presentWrite _ a d)) (Or.inr rfl)⟩
  · exact ⟨_, rfl, stepCase_idle _ s⟩

theorem afterCommand_cases (s : State) :
    ∃ t, exec .writeTakenAfterCommand s = .next t ∧ StepCase .writeTakenAfterCommand s t := by
  show ∃ t, execWriteTakenAfterCommand s = .next t ∧ _
  unfold execWriteTakenAfterCommand
  dsimp only
  split
  · rename_i a d hheld
    rw [beginStep_bus] at hheld
    split
    · exact ⟨_, rfl, stepCase_idle _ s⟩
    · exact ⟨_, rfl, .presented (by simp [hheld]) (by simp [hheld])
        ((work_beginStep s).cycleWork.trans (cycle_presentWrite _ a d)) (Or.inr rfl)⟩
  · exact ⟨_, rfl, stepCase_idle _ s⟩

theorem analysisCompletion_cases (s : State) :
    ∃ t, exec .analysisCompletion s = .next t ∧ StepCase .analysisCompletion s t := by
  show ∃ t, execAnalysisCompletion s = .next t ∧ _
  unfold execAnalysisCompletion
  dsimp only
  split
  · exact ⟨_, rfl, stepCase_idle _ s⟩
  · exact ⟨_, rfl, stepCase_worked (work_completeAnalysis _ _) (completeAnalysis_captureStill _ _)⟩

/-- A cue row takes its message from the link. -/
theorem exec_cueMessage {i : Instr} {dest kind : Byte} {due : Due} {payload : List Byte}
    {e : BitVec 16} (h : i.cueMessage? = some (dest, kind, due, payload, e)) (s : State) :
    exec i s = .next (takeMessage (beginStep s) dest kind due payload e) := by
  cases i <;> simp only [Instr.cueMessage?, Option.some.injEq, Prod.mk.injEq, reduceCtorEq] at h <;>
    obtain ⟨rfl, rfl, rfl, rfl, rfl⟩ := h <;> rfl

theorem cue_cases {i : Instr} (h : i.cueMessage?.isSome = true) (s : State) :
    ∃ t, exec i s = .next t ∧ StepCase i s t := by
  obtain ⟨⟨dest, kind, due, payload, e⟩, hmessage⟩ := Option.isSome_iff_exists.mp h
  exact ⟨_, exec_cueMessage hmessage s,
    stepCase_worked (work_takeMessage _ _ _ _ _ _) (takeMessage_captureStill _ _ _ _ _ _)⟩

theorem breakReceived_work (s : State) :
    BlockWork s { s with crx := { s.crx with state := .inBreak, buffer := [], timer := false } } :=
  work_receiver fun _ => assembling_nil rfl

/-- LINK_BAD_CHAR, LINK_BREAK, BREAK_END, LINK_TRUNCATED and LINK_CHARACTER_TAKEN are work of the blocks. -/
theorem linkBadChar_cases (line : BitVec 11) (s : State) :
    ∃ t, exec (.linkBadChar line) s = .next t ∧ StepCase (.linkBadChar line) s t := by
  have hrisen : BlockWork (beginStep s) (lineRises (seeFall (beginStep s))) :=
    (work_seeFall _).trans (work_lineRises _)
  have hstill : captureStill (beginStep s) (lineRises (seeFall (beginStep s))) :=
    seeFall_captureStill _
  show ∃ t, execLinkBadChar line s = .next t ∧ _
  unfold execLinkBadChar
  dsimp only
  split
  · exact ⟨_, rfl, stepCase_worked hrisen hstill⟩
  · exact ⟨_, rfl, stepCase_worked hrisen hstill⟩
  · exact ⟨_, rfl, stepCase_worked (hrisen.trans (work_raiseEvent _ _))
      (captureStill_trans hstill (raiseEvent_captureStill _ _))⟩
  · exact ⟨_, rfl, stepCase_worked ((hrisen.trans (work_fallAsleep _)).trans (work_raiseEvent _ _))
      (captureStill_trans hstill (raiseEvent_captureStill (fallAsleep _) _))⟩

theorem linkBreak_cases (s : State) :
    ∃ t, exec .linkBreak s = .next t ∧ StepCase .linkBreak s t := by
  have hfall := work_seeFall (beginStep s)
  have hstill := seeFall_captureStill (beginStep s)
  show ∃ t, execLinkBreak s = .next t ∧ _
  unfold execLinkBreak
  dsimp only
  split
  · exact ⟨_, rfl, stepCase_worked hfall hstill⟩
  · exact ⟨_, rfl, stepCase_worked hfall hstill⟩
  · exact ⟨_, rfl, stepCase_worked ((hfall.trans (breakReceived_work _)).trans (work_raiseEvent _ _))
      (captureStill_trans (captureStill_trans hstill ⟨rfl, rfl, rfl⟩) (raiseEvent_captureStill _ _))⟩
  · exact ⟨_, rfl, stepCase_worked ((hfall.trans (breakReceived_work _)).trans (work_raiseEvent _ _))
      (captureStill_trans (captureStill_trans hstill ⟨rfl, rfl, rfl⟩) (raiseEvent_captureStill _ _))⟩

theorem breakEnd_cases (s : State) : ∃ t, exec .breakEnd s = .next t ∧ StepCase .breakEnd s t := by
  show ∃ t, execBreakEnd s = .next t ∧ _
  unfold execBreakEnd
  dsimp only
  split
  · exact ⟨_, rfl, stepCase_worked (work_lineRises _) ⟨rfl, rfl, rfl⟩⟩
  · exact ⟨_, rfl, stepCase_worked ((work_lineRises _).trans (work_fallAsleep _)) ⟨rfl, rfl, rfl⟩⟩
  · exact ⟨_, rfl, stepCase_idle _ s⟩
  · exact ⟨_, rfl, stepCase_idle _ s⟩

theorem linkTruncated_cases (s : State) :
    ∃ t, exec .linkTruncated s = .next t ∧ StepCase .linkTruncated s t := by
  show ∃ t, execLinkTruncated s = .next t ∧ _
  unfold execLinkTruncated
  dsimp only
  split
  · exact ⟨_, rfl, stepCase_worked ((work_fallAsleep _).trans (work_raiseEvent _ _))
      (raiseEvent_captureStill (fallAsleep _) _)⟩
  · exact ⟨_, rfl, stepCase_idle _ s⟩

theorem work_fallWasNoise (s : State) : BlockWork s (fallWasNoise s) :=
  work_receiver fun h => assembling_congr h rfl

theorem linkCharacterTaken_cases (signal : LinkSignal) (s : State) :
    ∃ t, exec (.linkCharacterTaken signal) s = .next t ∧
      StepCase (.linkCharacterTaken signal) s t := by
  have hstill := seeFall_captureStill (beginStep s)
  show ∃ t, execLinkCharacterTaken signal s = .next t ∧ _
  unfold execLinkCharacterTaken
  dsimp only
  split
  · exact ⟨_, rfl, stepCase_worked (work_seeFall _) hstill⟩
  · split
    · exact ⟨_, rfl, stepCase_worked ((work_seeFall _).trans (work_fallWasNoise _)) hstill⟩
    · split
      · exact ⟨_, rfl, stepCase_worked (work_receiveCharacter _ _ _)
          (receiveCharacter_captureStill _ _ _)⟩
      · exact ⟨_, rfl, stepCase_worked (work_seeFall _) hstill⟩

theorem commandCompletion_cases (s : State) :
    ∃ t, exec .commandCompletion s = .next t ∧ StepCase .commandCompletion s t := by
  show ∃ t, execCommandCompletion s = .next t ∧ _
  unfold execCommandCompletion
  dsimp only
  split
  · exact ⟨_, rfl, stepCase_idle _ s⟩
  · rename_i c hc
    split
    · rename_i hready
      exact ⟨_, rfl, .completed rfl hc hready⟩
    · exact ⟨_, rfl, stepCase_idle _ s⟩

theorem resetFall_cases (s : State) : ∃ t, exec .resetFall s = .next t ∧ StepCase .resetFall s t := by
  show ∃ t, execResetFall s = .next t ∧ _
  unfold execResetFall
  dsimp only
  split
  · exact ⟨_, rfl, stepCase_idle _ s⟩
  · exact ⟨_, rfl, .fell rfl⟩

theorem resetRise_cases (cwb : BitVec 4) (stn : BitVec 5) (s : State) :
    ∃ t, exec (.resetRise cwb stn) s = .next t ∧ StepCase (.resetRise cwb stn) s t := by
  show ∃ t, execResetRise cwb stn s = .next t ∧ _
  unfold execResetRise
  dsimp only
  split
  · exact ⟨_, rfl, .rose cwb stn rfl⟩
  · exact ⟨_, rfl, stepCase_idle _ s⟩

theorem recordStart_cases (s : State) :
    ∃ t, exec .reportRecordStart s = .next t ∧ StepCase .reportRecordStart s t := by
  show ∃ t, execReportRecordStart s = .next t ∧ _
  unfold execReportRecordStart
  dsimp only
  split
  · exact ⟨_, rfl, .recorded⟩
  · exact ⟨_, rfl, stepCase_idle _ s⟩

/-- A row that is no processor cycle completes, in one of the cases. -/
theorem exec_other {i : Instr} (h : i.isProcessorCycle = false) (s : State) :
    ∃ t, exec i s = .next t ∧ StepCase i s t := by
  have hpart {i : Instr} (hi : i.isWriteCompletion = true) (owned : PartOwner → Bool) :
      ∃ t, portStep (finishPartWrite owned ownerDone) s = .next t ∧ StepCase i s t :=
    portStep_cases s fun _ _ _ hu => finishPartWrite_left hi hu
  cases i with
  | resetFall => exact resetFall_cases s
  | resetRise cwb stn => exact resetRise_cases cwb stn s
  | commandCompletion => exact commandCompletion_cases s
  | writeTakenAfterRoom => exact afterRoom_cases s
  | writeTakenAfterCommand => exact afterCommand_cases s
  | analysisCompletion => exact analysisCompletion_cases s
  | linkBadChar line => exact linkBadChar_cases line s
  | linkBreak => exact linkBreak_cases s
  | breakEnd => exact breakEnd_cases s
  | linkTruncated => exact linkTruncated_cases s
  | linkCharacterTaken signal => exact linkCharacterTaken_cases signal s
  | processorReadAccess => exact portStep_cases s fun _ _ _ hu => finishProcessorRead_left hu
  | tapFetch => exact portStep_cases s fun _ _ _ hu => finishTapFetch_left hu
  | drain => exact portStep_cases s fun _ _ _ hu => finishDrain_left hu
  | ringResetWord => exact hpart rfl _
  | statusWordWrite => exact hpart rfl _
  | refusalWordWrite => exact hpart rfl _
  | recordWord => exact hpart rfl _
  | producerIndexWrite => exact hpart rfl _
  | reportRecordStart => exact recordStart_cases s
  | chord | key | voiceOn | voiceOff | voiceMode | hold | release | timebase | clear =>
    exact cue_cases rfl s
  | _ => exact absurd h (by simp [Instr.isProcessorCycle])

/-- Every state a row leaves is left in one of the cases. -/
theorem stepCase_of_exec {i : Instr} {s t : State} (h : exec i s = .next t) : StepCase i s t := by
  have hcases : ∃ t, exec i s = .next t ∧ StepCase i s t := by
    cases hi : i.isProcessorCycle with
    | false => exact exec_other hi s
    | true =>
      obtain ⟨c, present, hexec, hc, hpresent⟩ := exec_processorCycle hi s
      cases hs : s.bus.cycle with
      | none =>
        rw [hexec]
        exact processorCycle_cases hc hpresent i s hs
      | some x => rw [hexec, processorCycle_held hs] at h; exact absurd h (by simp)
  obtain ⟨u, hu, hcase⟩ := hcases
  rw [h] at hu
  exact (Host.Outcome.next.inj hu) ▸ hcase

end Sys2Proof.Machine
end

section
/-! PROOFS. The invariants of the machine and the frames of its rows, from the cases of a step. -/

namespace Sys2Proof.Machine

/-! ### From the cases to a kept property -/

theorem cycle_beginHeld (s : State) : CycleWork s (beginHeld s) := by
  unfold beginHeld
  split
  · exact (cycle_releaseCycle s).trans (cycle_presentRead _ _)
  · exact cycle_presentWrite s _ _
  · exact CycleWork.refl s

/-- A property that every part of a step keeps is kept by the row. -/
theorem StepCase.keeps {P : State → Prop} {i : Instr} {s t : State} (h : StepCase i s t)
    (hcycle : ∀ s t, CycleWork s t → P s → P t) (hcommand : ∀ s t, CommandWork s t → P s → P t)
    (hport : ∀ x v, portLeft i s x v → P s → P v) (hgrant : ∀ s, P s → P (grant s))
    (hfell : P s → P (fallen (beginStep s)))
    (hrose : ∀ cwb stn, P s → P (risen cwb stn (beginStep s))) (hs : P s) : P t := by
  have hbegun : P (beginStep s) := hcycle _ _ (work_beginStep s).cycleWork hs
  cases h with
  | worked work _ => exact hcycle _ _ work.cycleWork hs
  | presented _ _ work granted =>
    obtain rfl | rfl := granted
    · exact hcycle _ _ work hs
    · exact hgrant _ (hcycle _ _ work hs)
  | recorded => exact hgrant _ (hcycle _ _ (cycle_startReadyRecord _) hbegun)
  | completed _ _ _ => exact hgrant _ (hcommand _ _ (command_completeCommand _ _) hbegun)
  | access _ left work _ _ => exact hgrant _ (hcycle _ _ work (hport _ _ left hs))
  | fell _ => exact hfell hs
  | rose cwb stn _ => exact hgrant _ (hcycle _ _ (cycle_beginHeld _) (hrose cwb stn hs))

/-- A property that does not read the queue of commands, kept by every row, is kept by every step. -/
theorem step_keeps {P : State → Prop} (hrest : ∀ s rest, P s → P { s with pending := rest })
    (hcase : ∀ i s t, StepCase i s t → P s → P t) {s t : State} (hs : P s) (h : step s = .next t) :
    P t := by
  unfold step at h
  split at h
  · exact Host.Outcome.next.inj h ▸ hs
  · exact hcase _ _ _ (stepCase_of_exec h) (hrest s _ hs)

/-- A completion at the port leaves all but memory, the port and the queue. -/
theorem portLeft_frame {i : Instr} {s v : State} {x : Access} (h : portLeft i s x v) :
    v = { s with
      pd := none, mem := v.mem, bus := { s.bus with port := none, queue := v.bus.queue } } ∧
    (v.bus.queue = s.bus.queue ∨ v.bus.queue = s.bus.queue.drop 1) := by
  obtain rfl | ⟨d, _, _, rfl | rfl⟩ := h
  · exact ⟨rfl, Or.inl rfl⟩
  · exact ⟨rfl, Or.inl rfl⟩
  · exact ⟨rfl, Or.inr rfl⟩

/-! ### Outcomes -/

/-- Settles O1. -/
theorem stepRunsFrontCommand : Obligations.StepRunsFrontCommand :=
  ⟨fun c rest s h => by simp only [step, h], fun s h => by simp only [step, h]⟩

/-- Settles O2: a processor cycle finds the bus free, every other row always completes. -/
theorem commandsComplete : Obligations.CommandsComplete := by
  intro i s hs
  cases hi : i.isProcessorCycle with
  | false =>
    obtain ⟨t, h, _⟩ := exec_other hi s
    exact ⟨t, h⟩
  | true =>
    obtain ⟨c, present, hexec, hc, hpresent⟩ := exec_processorCycle hi s
    obtain ⟨t, h, _⟩ := processorCycle_cases hc hpresent i s hs
    exact ⟨t, hexec.trans h⟩

/-- Settles O3: a processor cycle faults exactly where one is held. -/
theorem onlyOverlapFaults : Obligations.OnlyOverlapFaults := by
  intro i s
  cases hi : i.isProcessorCycle with
  | false =>
    obtain ⟨t, h, _⟩ := exec_other hi s
    simp [h]
  | true =>
    cases hs : s.bus.cycle with
    | none =>
      obtain ⟨t, h⟩ := commandsComplete i s hs
      simp [h]
    | some x =>
      obtain ⟨c, present, hexec, _, _⟩ := exec_processorCycle hi s
      simp [hexec, processorCycle_held hs]

/-- Settles O4. -/
theorem execKeepsPending : Obligations.ExecKeepsPending := by
  intro i s t h
  exact (stepCase_of_exec h).keeps (P := fun u => u.pending = s.pending)
    (fun _ _ work hs => work.pending.trans hs) (fun _ _ work hs => work.pending.trans hs)
    (fun _ _ left _ => by rw [(portLeft_frame left).1])
    (fun u hs => (grant_busOnly u).fields.1.trans hs) (fun hs => hs) (fun _ _ hs => hs) rfl

/-! ### Memory (R139) -/

theorem portLeft_wf {i : Instr} {s v : State} {x : Access} (h : portLeft i s x v)
    (hs : Memory.wf s.mem = true) : Memory.wf v.mem = true := by
  obtain rfl | ⟨d, _, _, rfl | rfl⟩ := h
  · exact hs
  · exact storeWord_wf (s := freePort (beginStep s)) hs _ d
  · exact storeWord_wf (s := freePort (beginStep s)) hs _ d

/-- Settles O6: memory is written by completions at the port alone, which keep the canonical form. -/
theorem memoryCanonicalKept : Obligations.MemoryCanonicalKept := by
  intro s t hs
  refine step_keeps (P := fun u => Memory.wf u.mem = true) (fun _ _ hs => hs) (fun i s t h => ?_) hs
  exact h.keeps (P := fun u => Memory.wf u.mem = true)
    (fun _ _ work hs => by rw [work.mem]; exact hs) (fun _ _ work hs => by rw [work.mem]; exact hs) (fun _ _ => portLeft_wf)
    (fun u hs => by rw [grant_mem]; exact hs) id (fun _ _ => id)

/-- Settles O13: of the cases of a step only a write completion reaches memory. -/
theorem memoryChangesOnlyAtPort : Obligations.MemoryChangesOnlyAtPort := by
  intro i s t hwf h
  have hsame {t : State} (hmem : t.mem = s.mem) (a : Addr) : loadWord t a = loadWord s a := by
    unfold loadWord
    rw [hmem]
  cases stepCase_of_exec h with
  | worked work _ => exact Or.inl (hsame work.mem)
  | presented _ _ work granted =>
    obtain rfl | rfl := granted
    · exact Or.inl (hsame work.mem)
    · exact Or.inl (hsame ((grant_mem _).trans work.mem))
  | recorded => exact Or.inl (hsame (by simp))
  | completed _ _ _ =>
    exact Or.inl (hsame ((grant_mem _).trans (command_completeCommand _ _).mem))
  | fell _ => exact Or.inl (hsame rfl)
  | rose cwb stn _ => exact Or.inl (hsame ((grant_mem _).trans (cycle_beginHeld _).mem))
  | @access x v u port left work _ _ =>
    have hmem : (grant u).mem = v.mem := (grant_mem u).trans work.mem
    obtain rfl | ⟨d, hi, hd, hv⟩ := left
    · exact Or.inl (hsame hmem)
    · have hstored : v.mem = (storeWord (freePort (beginStep s)) x.kind.onPort.1 d).mem := by
        obtain rfl | rfl := hv
        · rfl
        · rfl
      have hload (a : Addr) : loadWord (grant u) a =
          loadWord (storeWord (freePort (beginStep s)) x.kind.onPort.1 d) a := by
        unfold loadWord
        rw [hmem, hstored]
      refine Or.inr ⟨hi, x, d, port, hd, ?_, fun a ha => ?_⟩
      · rw [hload, loadWord_storeWord_same (s := freePort (beginStep s)) hwf]
      · rw [hload, loadWord_storeWord_other _ _ _ ha]
        rfl

/-! ### The control window (R140, R141) -/

/-- Settles O8: entry 0 is placed at a rise of RESET alone. -/
theorem controlWindowKept : Obligations.ControlWindowKept := by
  intro s t hs
  have hcongr {s t : State} (h : t.map.entry0 = s.map.entry0) (hs : controlPlaced s) :
      controlPlaced t := by
    obtain ⟨cwb, hcwb⟩ := hs
    exact ⟨cwb, h.trans hcwb⟩
  refine step_keeps (fun _ _ hs => hs) (fun i s t h => ?_) hs
  exact h.keeps (fun _ _ work => hcongr (by rw [work.map])) (fun _ _ work => hcongr work.entry0)
    (fun _ _ left => hcongr (by rw [(portLeft_frame left).1]))
    (fun u => hcongr (by rw [(grant_busOnly u)])) id (fun cwb _ _ => ⟨cwb, rfl⟩)

/-- Settles O11: outside reset the active setup and the map change in a command's effects alone, of which
only those of START and APPLY copy the shadow setup. -/
theorem setupChangesOnlyByCommand : Obligations.SetupChangesOnlyByCommand := by
  intro i s t h
  have hgrant (u : State) : (grant u).setup = u.setup ∧ (grant u).map = u.map := by
    rw [grant_busOnly u]
    exact ⟨rfl, rfl⟩
  cases stepCase_of_exec h with
  | worked work _ => exact Or.inl ⟨by rw [work.setup], by rw [work.map]⟩
  | presented _ _ work granted =>
    obtain rfl | rfl := granted
    · exact Or.inl ⟨work.active, by rw [work.map]⟩
    · rw [(hgrant _).1, (hgrant _).2]
      exact Or.inl ⟨work.active, by rw [work.map]⟩
  | recorded =>
    rw [(hgrant _).1, (hgrant _).2, startReadyRecord_setup, startReadyRecord_map]
    exact Or.inl ⟨rfl, rfl⟩
  | @completed c row command _ =>
    rw [(hgrant _).1, (hgrant _).2]
    by_cases h₁ : c.code.toNat = 1
    · exact Or.inr (Or.inr (Or.inr ⟨row, c, command, Or.inl h₁⟩))
    · by_cases h₂ : c.code.toNat = 2
      · exact Or.inr (Or.inr (Or.inr ⟨row, c, command, Or.inr h₂⟩))
      · obtain ⟨hactive, hmap⟩ := completeCommand_setup (beginStep s) h₁ h₂
        exact Or.inl ⟨hactive, by rw [hmap]; rfl⟩
  | access _ left work _ _ =>
    rw [(hgrant _).1, (hgrant _).2, work.active, work.map, (portLeft_frame left).1]
    exact Or.inl ⟨rfl, rfl⟩
  | fell row => exact Or.inr (Or.inl row)
  | rose cwb stn row => exact Or.inr (Or.inr (Or.inl ⟨cwb, stn, row⟩))

/-! ### Capture during a tap read (R76, R112) -/

/-- Settles O12: in a tap read no cycle is presented and no command completes, so that capture stands and the
queue is only drained. -/
theorem captureStillDuringTapRead : Obligations.CaptureStillDuringTapRead := by
  intro i s t r hr hnofall h
  have hgrant (u : State) : (grant u).cap = u.cap := by rw [grant_busOnly u]
  have hstill {t : State} (hcap : t.cap = s.cap)
      (hqueue : t.bus.queue = s.bus.queue ∨ t.bus.queue = s.bus.queue.drop 1) :
      t.cap.offset = s.cap.offset ∧ t.cap.c = s.cap.c ∧ t.cap.fill = s.cap.fill ∧
        (t.bus.queue = s.bus.queue ∨ t.bus.queue = s.bus.queue.drop 1) := by
    rw [hcap]
    exact ⟨rfl, rfl, rfl, hqueue⟩
  cases stepCase_of_exec h with
  | worked work still =>
    obtain ⟨hoffset, hc, hfill⟩ := still
    exact ⟨hoffset, hc, hfill, Or.inl work.queue⟩
  | presented _ noTap _ _ => exact absurd hr (noTap r)
  | recorded => exact hstill (by rw [hgrant, startReadyRecord_cap]; rfl) (Or.inl (by simp))
  | completed _ _ ready => exact absurd ready (by simp [canComplete, tapInFlight, hr])
  | access _ left _ still queue =>
    obtain ⟨hframe, hqueue⟩ := portLeft_frame left
    exact hstill (by rw [hgrant, still, hframe]) (by rw [grant_queue, queue]; exact hqueue)
  | fell row => exact absurd row hnofall
  | rose cwb stn _ =>
    have hheld : beginHeld (risen cwb stn (beginStep s)) = risen cwb stn (beginStep s) := by
      have hcycle : (risen cwb stn (beginStep s)).bus.cycle = some (.tap r) := hr
      unfold beginHeld
      rw [hcycle]
    exact hstill (by rw [hgrant, hheld]; rfl) (Or.inl (by rw [grant_queue, hheld]; rfl))

/-! ### Capacities (R8, R15, R26, R120, R129, R149, R165, R172) -/

/-- The arbiter leaves the requests, or all but the earliest. -/
theorem chooseAccess_suffix {s : State} {k : AccessKind} {ws : List PartWrite}
    (h : chooseAccess s = some (k, ws)) : ws <:+ s.bus.requests := by
  unfold chooseAccess at h
  split at h
  · simp only [Option.some.injEq, Prod.mk.injEq] at h
    exact h.2 ▸ List.suffix_refl _
  · split at h
    · exact absurd h (by simp)
    · rename_i w rest _ hrequests
      simp only [Option.some.injEq, Prod.mk.injEq] at h
      rw [hrequests, ← h.2]
      exact List.suffix_cons w rest
    · simp only [Option.some.injEq, Prod.mk.injEq] at h
      exact h.2 ▸ List.nil_suffix
    · rename_i w rest _ hrequests
      rw [hrequests]
      split at h
      · simp only [Option.some.injEq, Prod.mk.injEq] at h
        exact h.2 ▸ List.suffix_refl _
      · simp only [Option.some.injEq, Prod.mk.injEq] at h
        exact h.2 ▸ List.suffix_cons w rest

theorem grant_capacity {s : State} (h : withinCapacity s) : withinCapacity (grant s) := by
  rcases grant_cases s with hg | ⟨k, ws, _, _, hchoice, hg⟩
  · rw [hg]; exact h
  · rw [hg]
    obtain ⟨queue, events, cues, records, samples, fill, refusals, message⟩ := h
    refine ⟨queue, events, cues, records, samples, fill, ?_, message⟩
    exact le_trans ((chooseAccess_suffix hchoice).sublist.filter _).length_le refusals

theorem portLeft_capacity {i : Instr} {s v : State} {x : Access} (h : portLeft i s x v)
    (hs : withinCapacity s) : withinCapacity v := by
  obtain ⟨hframe, hqueue⟩ := portLeft_frame h
  obtain ⟨queue, events, cues, records, samples, fill, refusals, message⟩ := hs
  rw [hframe]
  refine ⟨?_, events, cues, records, samples, fill, refusals, message⟩
  show v.bus.queue.length ≤ 8
  obtain h | h := hqueue
  · rw [h]; exact queue
  · rw [h, List.length_drop]; omega

theorem fallen_capacity (s : State) : withinCapacity (fallen s) :=
  ⟨Nat.zero_le _, Nat.zero_le _, Nat.zero_le _, Nat.zero_le _, Nat.zero_le _, Nat.zero_le _,
    Nat.zero_le _, assembling_nil rfl⟩

theorem risen_capacity {s : State} (cwb : BitVec 4) (stn : BitVec 5) (h : withinCapacity s) :
    withinCapacity (risen cwb stn s) := by
  obtain ⟨queue, events, cues, records, samples, fill, refusals, message⟩ := h
  exact ⟨queue, events, cues, records, samples, fill, refusals, assembling_congr message rfl⟩

/-- Settles O7: every part of a step keeps the capacities. -/
theorem capacitiesKept : Obligations.CapacitiesKept := by
  intro s t hs
  refine step_keeps (P := withinCapacity) (fun _ _ hs => hs) (fun i s t h => ?_) hs
  exact h.keeps (fun _ _ work => work.capacity) (fun _ _ work => work.capacity)
    (fun _ _ => portLeft_capacity) (fun _ => grant_capacity) (fun _ => fallen_capacity _)
    (fun cwb stn => risen_capacity cwb stn)

/-! ### Voice states (R62) -/

theorem powerOn_consistent : VoiceRecord.powerOn.consistent := ⟨rfl, rfl, rfl, rfl, rfl⟩

theorem voiceOf_powerOn {s : State} (h : s.vce = State.reset.vce) (v : Fin 4) :
    voiceOf s v = VoiceRecord.powerOn := by
  unfold voiceOf
  rw [h]
  exact Vector.getElem_replicate _

theorem fallen_voices (s : State) : voicesConsistent (fallen s) := by
  refine ⟨fun v => ?_, fun r hr => ?_⟩
  · rw [voiceOf_powerOn (s := fallen s) rfl]
    exact powerOn_consistent
  · obtain ⟨c, _, hc⟩ := Option.map_eq_some_iff.mp hr
    cases c <;> exact absurd hc (by simp [Cycle.abandoned])

theorem grant_voices {s : State} (h : voicesConsistent s) : voicesConsistent (grant s) := by
  obtain ⟨hall, htap⟩ := h
  refine ⟨fun v => ?_, fun r hr => htap r (by rwa [grant_cycle] at hr)⟩
  have hvoice : voiceOf (grant s) v = voiceOf s v := by
    unfold voiceOf
    rw [grant_busOnly s]
  rw [hvoice]
  exact hall v

/-- Settles O9: every part of a step keeps the records consistent. -/
theorem voiceStatesKept : Obligations.VoiceStatesKept := by
  intro s t hs
  refine step_keeps (P := voicesConsistent) (fun _ _ hs => hs) (fun i s t h => ?_) hs
  exact h.keeps (fun _ _ work => work.voices) (fun _ _ work => work.voices)
    (fun _ _ left hs => by rw [(portLeft_frame left).1]; exact hs) (fun _ => grant_voices)
    (fun _ => fallen_voices _) (fun _ _ hs => hs)

/-! ### The owner of the access in progress (R139, R151) -/

/-- With the port free nothing is owed. -/
theorem portOwned_of_free {s : State} (h : s.bus.port = none) : portOwned s :=
  fun x hx => absurd (h.symm.trans hx) (by simp)

/-- What the arbiter grants is its owner's. -/
theorem grant_portOwned {s : State} (h : portOwned s) : portOwned (grant s) := by
  rcases grant_cases s with hg | ⟨k, ws, _, _, hchoice, hg⟩
  · rw [hg]; exact h
  · rw [hg]
    intro x hx _
    simp only [Option.some.injEq] at hx
    subst hx
    unfold chooseAccess at hchoice
    split at hchoice
    · rename_i k' hrank
      simp only [Option.some.injEq, Prod.mk.injEq] at hchoice
      obtain ⟨rfl, _⟩ := hchoice
      unfold rankOne at hrank
      split at hrank
      · rename_i a hcycle
        simp only [Option.some.injEq] at hrank
        subst hrank
        exact hcycle
      · rename_i r hcycle
        obtain ⟨a, ha, rfl⟩ := Option.map_eq_some_iff.mp hrank
        obtain ⟨w, hw, hhead⟩ := Option.bind_eq_some_iff.mp ha
        exact ⟨r, w, hcycle, hw, hhead⟩
      all_goals exact absurd hrank (by simp)
    · split at hchoice
      · exact absurd hchoice (by simp)
      · simp only [Option.some.injEq, Prod.mk.injEq] at hchoice
        obtain ⟨rfl, _⟩ := hchoice
        trivial
      · rename_i hqueue _
        simp only [Option.some.injEq, Prod.mk.injEq] at hchoice
        obtain ⟨rfl, _⟩ := hchoice
        show s.bus.queue.head? = _
        rw [hqueue]
        rfl
      · rename_i hqueue _
        split at hchoice
        · simp only [Option.some.injEq, Prod.mk.injEq] at hchoice
          obtain ⟨rfl, _⟩ := hchoice
          show s.bus.queue.head? = _
          rw [hqueue]
          rfl
        · simp only [Option.some.injEq, Prod.mk.injEq] at hchoice
          obtain ⟨rfl, _⟩ := hchoice
          trivial

/-- The access in progress stays its owner's while only claims come to wait in a tap read. -/
theorem portOwned_claims {s t : State} (hport : t.bus.port = s.bus.port)
    (hqueue : t.bus.queue = s.bus.queue) (hcycle : claimsOnly s.bus.cycle t.bus.cycle)
    (h : portOwned s) : portOwned t := by
  intro x hx hlive
  have hown := h x (hport ▸ hx) hlive
  split
  · rename_i a hkind
    simp only [hkind] at hown
    obtain hsame | ⟨r, k, htap, _⟩ := hcycle
    · exact hsame.trans hown
    · exact absurd (htap.symm.trans hown) (by simp)
  · rename_i a hkind
    simp only [hkind] at hown
    obtain ⟨r, w, hr, hw, hhead⟩ := hown
    obtain hsame | ⟨r', k, htap, htap'⟩ := hcycle
    · exact ⟨r, w, hsame.trans hr, hw, hhead⟩
    · have hread := htap.symm.trans hr
      simp only [Option.some.injEq, Cycle.tap.injEq] at hread
      subst hread
      exact ⟨_, w, htap', hw, hhead⟩
  · rename_i e hkind
    simp only [hkind] at hown
    rw [hqueue]
    exact hown
  · trivial

/-- The access in progress stays its owner's while a cycle is presented: no cycle waited for it. -/
theorem portOwned_presented {s t : State} (noRead : ∀ a, s.bus.cycle ≠ some (.read a))
    (noTap : ∀ r, s.bus.cycle ≠ some (.tap r)) (work : CycleWork s t) (h : portOwned s) :
    portOwned t := by
  intro x hx hlive
  have hown := h x (work.port ▸ hx) hlive
  split
  · rename_i a hkind
    simp only [hkind] at hown
    exact absurd hown (noRead a)
  · rename_i a hkind
    simp only [hkind] at hown
    obtain ⟨r, _, hr, _, _⟩ := hown
    exact absurd hr (noTap r)
  · rename_i e hkind
    simp only [hkind] at hown
    exact work.oldest e hown
  · trivial

theorem fallen_portOwned (s : State) : portOwned (fallen s) := by
  intro x hx hlive
  obtain ⟨y, _, rfl⟩ := Option.map_eq_some_iff.mp hx
  exact absurd hlive (by simp)

theorem beginHeld_portOwned {s : State} (h : portOwned s) : portOwned (beginHeld s) := by
  have hwork := cycle_beginHeld s
  cases hc : s.bus.cycle with
  | some c =>
    cases c with
    | readInReset a => exact portOwned_presented (by simp [hc]) (by simp [hc]) hwork h
    | writeInReset a d => exact portOwned_presented (by simp [hc]) (by simp [hc]) hwork h
    | _ => simpa only [beginHeld, hc] using h
  | none => simpa only [beginHeld, hc] using h

/-- Settles O10: a presented cycle finds no cycle waiting for the access in progress, a completion frees the
port, and a grant is its owner's. -/
theorem portOwnersKept : Obligations.PortOwnersKept := by
  intro s t hs
  refine step_keeps (P := portOwned) (fun _ _ hs => hs) (fun i s t h hs => ?_) hs
  cases h with
  | worked work _ => exact portOwned_claims work.port work.queue work.cycle hs
  | presented noRead noTap work granted =>
    have hu := portOwned_presented noRead noTap work hs
    obtain rfl | rfl := granted
    · exact hu
    · exact grant_portOwned hu
  | recorded =>
    exact grant_portOwned (portOwned_claims (by simp) (by simp) (Or.inl (by simp)) hs)
  | completed _ _ _ =>
    have hwork := command_completeCommand (beginStep s) ‹Command›
    exact grant_portOwned (portOwned_claims hwork.port hwork.queue hwork.cycle hs)
  | access _ left work _ _ =>
    refine grant_portOwned (portOwned_of_free (work.port.trans ?_))
    rw [(portLeft_frame left).1]
  | fell _ => exact fallen_portOwned _
  | rose cwb stn _ =>
    have hrisen : portOwned (risen cwb stn (beginStep s)) := hs
    exact grant_portOwned (beginHeld_portOwned hrisen)

/-! ### After power-on reset -/

/-- Settles O5. -/
theorem resetMeetsInvariants : Obligations.ResetMeetsInvariants := by
  refine ⟨rfl, ⟨0, rfl⟩, ?_, ?_, portOwned_of_free rfl⟩
  · exact ⟨by decide, by decide, by decide, by decide, by decide, by decide, by decide,
      assembling_nil rfl⟩
  · refine ⟨fun v => ?_, by simp [State.reset]⟩
    rw [voiceOf_powerOn rfl]
    exact powerOn_consistent

end Sys2Proof.Machine
end

section
/-! PROOFS. Power-on reset, the arbiter's ranks, and the completions at the memory port. -/

namespace Sys2Proof.Machine

/-! ### Power-on reset (R140, R157 to R159) -/

/-- Settles O14. -/
theorem powerOnState : Obligations.PowerOnState := by
  refine ⟨rfl, rfl, rfl, rfl, rfl, by decide, rfl, rfl, rfl, rfl, by decide, rfl, rfl, rfl, rfl, rfl,
    rfl, by decide, rfl, rfl, rfl, rfl, rfl, rfl, rfl, by decide, by decide, by decide, by decide,
    by decide, by decide +kernel⟩

/-! ### What a completion at the port leaves (R139, R140) -/

/-- A word stored as the port is freed is in memory, and no other word changes. -/
theorem loadWord_stored {s t : State} (hwf : Memory.wf s.mem = true) {a : Addr} {d : Word}
    (hmem : t.mem = (storeWord (freePort (beginStep s)) a d).mem) :
    loadWord t a = d ∧ ∀ b : Addr, b ≠ a → loadWord t b = loadWord s b := by
  have hload (b : Addr) : loadWord t b = loadWord (storeWord (freePort (beginStep s)) a d) b := by
    unfold loadWord
    rw [hmem]
  refine ⟨?_, fun b hb => ?_⟩
  · rw [hload, loadWord_storeWord_same (s := freePort (beginStep s)) hwf]
  · rw [hload, loadWord_storeWord_other _ _ _ hb]
    rfl

/-- A completion that stores a word and leaves its owner's work: the word is in memory. -/
theorem portStep_stores {s u : State} {x : Access} {f : Access → State → Option State} {a : Addr}
    {d : Word} (hwf : Memory.wf s.mem = true) (hport : s.bus.port = some x)
    (hheld : heldWriteReady s = false) (hf : f x (freePort (beginStep s)) = some u)
    (hmem : u.mem = (storeWord (freePort (beginStep s)) a d).mem) :
    portStep f s = .next (grant u) ∧ loadWord (grant u) a = d ∧
      ∀ b : Addr, b ≠ a → loadWord (grant u) b = loadWord s b :=
  ⟨portStep_done hport hheld hf, loadWord_stored hwf ((grant_mem u).trans hmem)⟩

/-! ### The fall of RESET -/

theorem execResetFall_high {s : State} (h : s.resetLow = false) :
    exec .resetFall s = .next (fallen (beginStep s)) := by
  show execResetFall s = _
  simp [execResetFall, h]

/-- Settles O15: the fall makes every block its power-on value, and an access that nobody waits for any more
leaves its word, if it writes one, and frees the port. -/
theorem resetFallTakesPowerOnValues : Obligations.ResetFallTakesPowerOnValues := by
  have habandoned (s : State) {c : Option Cycle} (h : s.bus.cycle = c) :
      s.bus.cycle.map Cycle.abandoned = c.map Cycle.abandoned := congrArg (Option.map Cycle.abandoned) h
  refine ⟨fun s hs => ⟨_, execResetFall_high hs, rfl, rfl, rfl, rfl, rfl, rfl, rfl, rfl, rfl, rfl, rfl,
    rfl, rfl, rfl, rfl, habandoned s, fun a => habandoned s, fun r => habandoned s,
    fun a d => habandoned s, fun a d => habandoned s⟩, ?_⟩
  intro s hheld freed ends stores
  have hidle (m : Memory) (h : s.resetLow = true) : grant (freed m) = freed m := grant_of_resetLow h
  have hfrees {i : Instr} {x : Access} {f : Access → State → Option State} (hport : s.bus.port = some x)
      (hi : exec i s = portStep f s) (hf : f x (freePort (beginStep s)) = some (freed s.mem)) :
      ∃ t, ends i t s.mem :=
    ⟨_, hi.trans (portStep_done hport hheld hf), rfl, hidle s.mem⟩
  have hstores {i : Instr} {x : Access} {f : Access → State → Option State} {a : Addr} {d : Word}
      (hport : s.bus.port = some x) (hi : exec i s = portStep f s)
      (hf : f x (freePort (beginStep s)) = some (storeWord (freePort (beginStep s)) a d)) :
      stores i a d := by
    intro hwf
    obtain ⟨hnext, hload, hothers⟩ := portStep_stores hwf hport hheld hf rfl
    have hmem : (grant (storeWord (freePort (beginStep s)) a d)).mem = Memory.write s.mem a.toNat d :=
      grant_mem _
    exact ⟨_, ⟨hi.trans hnext, by rw [hmem]; rfl, fun h => by rw [hmem]; exact hidle _ h⟩, hload,
      hothers⟩
  refine ⟨fun a hp => hfrees hp rfl (finishProcessorRead_dropped a _),
    fun a hp => hfrees hp rfl (finishTapFetch_dropped a _),
    fun e hp => hstores hp rfl (finishDrain_dropped e _), fun o a d hp => ?_⟩
  refine ⟨fun k ho => ?_, fun ho => ?_, fun ho => ?_, fun k ho => ?_, fun ho => ?_⟩
  all_goals subst ho; exact hstores hp rfl (finishPartWrite_dropped rfl _)

/-! ### The rise of RESET -/

/-- The control window's base is CWB times 65,536 (R140, R141). -/
theorem control_base (cwb : BitVec 4) : (WindowEntry.control cwb).base.toNat = cwb.toNat * 65536 := by
  show (cwb ++ 0#16).toNat = _
  rw [BitVec.toNat_append, Nat.shiftLeft_eq]
  simp

theorem execResetRise_low {s : State} (h : s.resetLow = true) (cwb : BitVec 4) (stn : BitVec 5) :
    exec (.resetRise cwb stn) s = .next (grant (beginHeld (risen cwb stn (beginStep s)))) := by
  show execResetRise cwb stn s = _
  simp [execResetRise, h]

/-- Settles O16: a cycle held in reset is presented at the rise as one that begins there. -/
theorem resetRisePlacesControlWindow : Obligations.ResetRisePlacesControlWindow := by
  refine ⟨fun s cwb stn hlow => ?_, fun s hlow hfree => ?_⟩
  · intro up
    have hup : portFree up := ⟨rfl, rfl⟩
    refine ⟨⟨control_base cwb, rfl, rfl, fun e he => ?_⟩, fun hc => ?_, fun a hc => ?_, fun a d hc => ?_⟩
    · have hoff : e = WindowEntry.off := by simpa [up, WindowMap.powerOn] using he
      rw [hoff]
      rfl
    · have hheld : beginHeld (risen cwb stn (beginStep s)) = { up with pd := none } := by
        have hnone : (risen cwb stn (beginStep s)).bus.cycle = none := hc
        have hbus : (risen cwb stn (beginStep s)) = releaseCycle (risen cwb stn (beginStep s)) :=
          (releaseCycle_of_none hnone).symm
        unfold beginHeld
        rw [hnone]
        exact hbus
      rw [execResetRise_low hlow, hheld]
    · have hheld : beginHeld (risen cwb stn (beginStep s)) =
          presentRead (releaseCycle (risen cwb stn (beginStep s))) a := by
        have hread : (risen cwb stn (beginStep s)).bus.cycle = some (.readInReset a) := hc
        unfold beginHeld
        rw [hread]
      rw [execResetRise_low hlow, hheld]
      exact (processorReadCycle_free hup a).symm
    · have hheld : beginHeld (risen cwb stn (beginStep s)) =
          presentWrite (risen cwb stn (beginStep s)) a d := by
        have hwrite : (risen cwb stn (beginStep s)).bus.cycle = some (.writeInReset a d) := hc
        unfold beginHeld
        rw [hwrite]
      rw [execResetRise_low hlow, hheld]
      exact (processorCycle_free hup (.writeInReset a d) fun u => presentWrite u a d).symm
  · intro held
    have hread (a : Addr) : processorReadCycle a s = held (.readInReset a) :=
      processorCycle_inReset hfree hlow _ _
    have hwrite (a : Addr) (d : Word) : processorWrite a d s = held (.writeInReset a d) :=
      processorCycle_inReset hfree hlow _ _
    refine ⟨fun a i hi => ?_, fun a d i hi => ?_, fun i d hi => ?_⟩
    · simp only [List.mem_cons, List.not_mem_nil, or_false] at hi
      rcases hi with rfl | rfl | rfl | rfl | rfl | rfl | rfl | rfl
      all_goals exact hread a
    · simp only [List.mem_cons, List.not_mem_nil, or_false] at hi
      rcases hi with rfl | rfl | rfl | rfl | rfl
      all_goals exact hwrite a d
    · rw [exec_commandWord hi]
      have hbase : controlAddr s 0 = s.map.entry0.base := BitVec.add_zero _
      rw [hbase]
      exact hwrite _ d

/-! ### The arbiter (R152, R153) -/

theorem grant_choice {s : State} (hhigh : s.resetLow = false) (hport : s.bus.port = none)
    {k : AccessKind} {ws : List PartWrite} (h : chooseAccess s = some (k, ws)) :
    grant s = { s with bus := { s.bus with port := some ⟨k, true⟩, requests := ws } } := by
  simp only [grant, hhigh, hport, h]
  rfl

/-- The access a waiting cycle asks for goes first. -/
theorem chooseAccess_ranked {s : State} {k : AccessKind} (h : rankOne s = some k) :
    chooseAccess s = some (k, s.bus.requests) := by
  simp only [chooseAccess, h]

/-- With a cycle waiting for no access, none is of rank 1. -/
theorem rankOne_none {s : State} (hread : ∀ a, s.bus.cycle ≠ some (.read a))
    (htap : ∀ r, s.bus.cycle ≠ some (.tap r)) : rankOne s = none := by
  unfold rankOne
  split
  · exact absurd ‹_› (hread _)
  · exact absurd ‹_› (htap _)
  all_goals rfl

theorem heldForRoom_iff {s : State} :
    heldForRoom s = true ↔ ∃ a d, s.bus.cycle = some (.writeForRoom a d) := by
  unfold heldForRoom
  split
  · rename_i a d h
    exact ⟨fun _ => ⟨a, d, h⟩, fun _ => rfl⟩
  · rename_i h
    exact ⟨nofun, fun ⟨a, d, hc⟩ => absurd hc (h a d)⟩

/-- A drain is pressed at 6 entries, for a write held for room, or for a requested part write whose address is
queued (R152, R153). -/
theorem drainPressed_iff {s : State} : drainPressed s = true ↔
    6 ≤ s.bus.queue.length ∨ (∃ a d, s.bus.cycle = some (.writeForRoom a d)) ∨
      ∃ w ∈ s.bus.requests, ∃ x ∈ s.bus.queue, x.addr = w.addr := by
  simp only [drainPressed, Config.drainPressure, Bool.or_eq_true, decide_eq_true_eq, heldForRoom_iff,
    requestBlocked, List.any_eq_true, or_assoc]

/-- A pressed drain, or one with no part write requested, is granted. -/
theorem chooseAccess_drain {s : State} (hrank : rankOne s = none) {e : QueueEntry}
    (hhead : s.bus.queue.head? = some e) (hdrain : drainPressed s = true ∨ s.bus.requests = []) :
    chooseAccess s = some (.drain e, s.bus.requests) := by
  obtain ⟨rest, hqueue⟩ : ∃ rest, s.bus.queue = e :: rest := by
    cases hq : s.bus.queue with
    | nil => simp [hq] at hhead
    | cons x rest =>
      rw [hq, List.head?_cons, Option.some.injEq] at hhead
      exact ⟨rest, by rw [hhead]⟩
  cases hrequests : s.bus.requests with
  | nil => simp only [chooseAccess, hrank, hqueue, hrequests]
  | cons w ws =>
    have hpressed : drainPressed s = true := by simpa [hrequests] using hdrain
    simp only [chooseAccess, hrank, hqueue, hrequests, hpressed, if_true]

/-- The earliest part write is granted where no drain is pressed. -/
theorem chooseAccess_partWrite {s : State} (hrank : rankOne s = none) {w : PartWrite}
    {ws : List PartWrite} (hrequests : s.bus.requests = w :: ws) (hdrain : drainPressed s = false) :
    chooseAccess s = some (.partWrite w, ws) := by
  cases hqueue : s.bus.queue with
  | nil => simp only [chooseAccess, hrank, hqueue, hrequests]
  | cons e rest =>
    simp only [chooseAccess, hrank, hqueue, hrequests, hdrain]
    rfl

/-- Nothing is granted while the port is busy. -/
theorem grant_busy {s : State} (h : s.bus.port ≠ none) : grant s = s := by
  rcases grant_cases s with hg | ⟨_, _, _, hport, _, _⟩
  · exact hg
  · exact absurd hport h

/-- Settles O35. -/
theorem arbiterRanks : Obligations.ArbiterRanks := by
  intro s
  refine ⟨?_, grant_of_resetLow, grant_busy, fun hhigh hport => ?_⟩
  · rcases grant_cases s with hg | ⟨_, _, _, _, _, hg⟩
    · rw [hg]
    · rw [hg]
  have hgrant {k : AccessKind} {ws : List PartWrite} (h : chooseAccess s = some (k, ws)) :=
    grant_choice hhigh hport h
  refine ⟨fun a ha => ?_, fun r w a hr hw ha => ?_, fun hread htap => ?_⟩
  · exact hgrant (chooseAccess_ranked (by simp only [rankOne, ha]))
  · exact hgrant (chooseAccess_ranked (by simp [rankOne, hr, hw, ha]))
  · have hrank := rankOne_none hread htap
    refine ⟨fun e he hwhy => hgrant (chooseAccess_drain hrank he ?_), fun w ws hrequests hfew hroom hclear =>
      hgrant (chooseAccess_partWrite hrank hrequests ?_), fun hqueue hrequests => ?_⟩
    · rw [drainPressed_iff]
      simpa only [or_assoc] using hwhy
    · rw [← Bool.not_eq_true, drainPressed_iff]
      rintro (hmany | ⟨a, d, hheld⟩ | ⟨x, hx, y, hy, hxy⟩)
      · omega
      · exact hroom a d hheld
      · exact hclear x hx y hy hxy
    · have hnone : chooseAccess s = none := by simp only [chooseAccess, hrank, hqueue, hrequests]
      simp only [grant, hhigh, hport, hnone]
      rfl

/-! ### Processor reads (R144, R150, R152) -/

/-- A read that no TAP window decides goes to memory. -/
theorem presentRead_memory {s : State} {a : Addr} (h : ∀ n, classify s a ≠ some (.tap, n)) :
    presentRead s a = memoryRead s a := by
  unfold presentRead
  split
  · exact absurd ‹_› (h _)
  · rfl

/-- Settles O33. -/
theorem processorReads : Obligations.ProcessorReads := by
  intro s a
  refine ⟨fun hfree hplain => ?_, fun hport hcycle => ?_, fun q d => ?_⟩
  · have hread : exec (.processorRead a) s = .next (grant (memoryRead (beginStep s) a)) := by
      rw [← presentRead_memory (s := beginStep s) hplain]
      exact processorReadCycle_free hfree a
    obtain ⟨hnone, hhigh⟩ := hfree
    refine ⟨fun d hd => ?_, fun hmiss => ?_⟩
    · have hserved : memoryRead (beginStep s) a = endCycle (beginStep s) (some d) := by
        simp only [memoryRead, beginStep_bus, hd]
      have hsame : endCycle (beginStep s) (some d) = { s with pd := some d } := by
        have hrelease := releaseCycle_of_none (s := { s with pd := some d }) hnone
        exact hrelease
      rw [hread, hserved, hsame]
    · have hheld : memoryRead (beginStep s) a = holdCycle (beginStep s) (.read a) := by
        simp only [memoryRead, beginStep_bus, hmiss]
      rw [hread, hheld]
      by_cases hport : s.bus.port = none
      · rw [if_pos hport, grant_choice (s := holdCycle (beginStep s) (.read a)) hhigh hport
          (chooseAccess_ranked (k := .processorRead a) rfl)]
        rfl
      · rw [if_neg hport, grant_busy (s := holdCycle (beginStep s) (.read a)) hport]
        rfl
  · have hhigh : heldWriteReady s = false := by simp only [heldWriteReady, hcycle]
    exact portStep_done hport hhigh rfl
  · exact ⟨forwarded_append_same q a d, rfl, fun b hb => forwarded_append_other q d hb⟩

/-! ### Drains (R150, R151) -/

/-- A drain moves its word from the queue to memory, where a read of its address finds it as before. -/
theorem visibleWord_drained {s t : State} {e : QueueEntry} {rest : List QueueEntry}
    (hqueue : s.bus.queue = e :: rest) (hrest : t.bus.queue = rest) (hsame : loadWord t e.addr = e.data)
    (hothers : ∀ a : Addr, a ≠ e.addr → loadWord t a = loadWord s a) (a : Addr) :
    visibleWord t a = visibleWord s a := by
  unfold visibleWord
  rw [hqueue, hrest, forwarded_cons]
  cases hnewer : forwarded rest a with
  | some d => rfl
  | none =>
    by_cases ha : e.addr = a
    · subst ha
      simp [hsame]
    · simp [ha, hothers a (Ne.symm ha)]

/-- Settles O34. -/
theorem drainStoresOldestEntry : Obligations.DrainStoresOldestEntry := by
  intro s e rest hwf hport hqueue hheld
  obtain ⟨hnext, hsame, hothers⟩ := portStep_stores (f := finishDrain)
    (u := { storeWord (freePort (beginStep s)) e.addr e.data with
      bus := { (freePort (beginStep s)).bus with queue := s.bus.queue.drop 1 } })
    hwf hport hheld rfl rfl
  refine ⟨_, hnext, ?_, hsame, hothers, visibleWord_drained hqueue ?_ hsame hothers⟩
  · rw [grant_mem]
    simp only [hqueue, List.drop_one, List.tail_cons]
    rfl
  · rw [grant_queue]
    simp [hqueue]

/-! ### The owners of part writes (R163 to R165) -/

/-- A part write of a waiting owner completes: its word is in memory, and its owner goes on. -/
theorem partWrite_done {s : State} {owned : PartOwner → Bool} {o : PartOwner} {a : Addr} {d : Word}
    (ho : owned o = true) (hwf : Memory.wf s.mem = true)
    (hport : s.bus.port = some ⟨.partWrite ⟨o, a, d⟩, true⟩) (hheld : heldWriteReady s = false) :
    let t := grant (ownerDone o (storeWord (freePort (beginStep s)) a d))
    portStep (finishPartWrite owned ownerDone) s = .next t ∧ loadWord t a = d ∧
      (∀ b : Addr, b ≠ a → loadWord t b = loadWord s b) ∧
      t.mem = (storeWord (freePort (beginStep s)) a d).mem := by
  obtain ⟨hnext, hload, hothers⟩ := portStep_stores hwf hport hheld
    (finishPartWrite_live (done := ownerDone) (w := ⟨o, a, d⟩) ho (freePort (beginStep s)))
    (cycle_ownerDone o _).mem
  exact ⟨hnext, hload, hothers, (grant_mem _).trans (cycle_ownerDone o _).mem⟩

/-- Settles O25: the last ring-reset word ends the command, the others leave their word alone. -/
theorem ringResetWords : Obligations.RingResetWords := by
  intro s k a d c hwf hport hcommand hheld
  obtain ⟨hnext, hload, hothers, hmem⟩ :=
    partWrite_done (owned := PartOwner.isRingReset) rfl hwf hport hheld
  refine ⟨_, hnext, hload, hothers, fun hk => ?_, fun hk => ?_⟩
  · have hdone (u : State) : ownerDone (.ringReset k) u = u := if_neg hk
    rw [hmem, hdone]
    rfl
  · have hdone (u : State) (hu : u.setup.command = some c) : ownerDone (.ringReset k) u =
        endCommand { u with rpt := { u.rpt with ringWritten := true } } (doneStatus c) := by
      subst hk
      simp only [ownerDone, ringWordDone, hu]
      rfl
    rw [hmem, hdone (storeWord (freePort (beginStep s)) a d) hcommand]
    rfl

/-- Settles O26: the end of a status word raises CMD_DONE; a refusal word leaves nothing but itself. -/
theorem statusAndRefusalWords : Obligations.StatusAndRefusalWords := by
  refine ⟨fun s a d hwf hport hheld => ?_, fun s a d w hwf hport hstatus hheld => ?_⟩
  · obtain ⟨hnext, hload, hothers, hmem⟩ :=
      partWrite_done (owned := PartOwner.isRefusal) rfl hwf hport hheld
    exact ⟨_, hnext, hload, hothers, by rw [hmem]; rfl⟩
  · obtain ⟨hnext, hload, hothers, hmem⟩ :=
      partWrite_done (owned := PartOwner.isStatus) rfl hwf hport hheld
    refine ⟨_, hnext, hload, hothers, ?_⟩
    have hended : statusWordDone (storeWord (freePort (beginStep s)) a d) =
        raiseEvent { storeWord (freePort (beginStep s)) a d with
          setup := { s.setup with status := none } } (cmdDoneEvent s w) := by
      simp only [statusWordDone, storeWord_setup, freePort_setup, beginStep_setup, hstatus]
      rfl
    have hraised := raiseEvent_from (s := s) (t := { storeWord (freePort (beginStep s)) a d with
      setup := { s.setup with status := none } }) (cmdDoneEvent s w) rfl rfl rfl rfl
    rw [hmem]
    show grant (startReadyRecord (statusWordDone _)) = _
    rw [hended, hraised]
    rfl

end Sys2Proof.Machine
end

section
/-! PROOFS. The setup words of the control window, and writes by the window that decides them. -/

namespace Sys2Proof.Machine

/-! ### Elements of the setup tables -/

theorem updateAt_of_lt {α : Type} {n : Nat} (v : Vector α n) (i : Fin n) (f : α → α) :
    updateAt v i.val f = v.set i (f v[i]) :=
  dif_pos i.isLt

/-- Rewriting an element to itself changes nothing. -/
theorem updateAt_id {α : Type} {n : Nat} (v : Vector α n) (i : Nat) {f : α → α} (hf : ∀ x, f x = x) :
    updateAt v i f = v := by
  unfold updateAt
  split
  · rw [hf]
    exact Vector.set_getElem_self _
  · rfl

/-- The search of a table finds its first element that passes. -/
theorem find_toList_eq_some {α : Type} {n : Nat} (v : Vector α n) {p : α → Bool} (i : Fin n)
    (hi : p v[i] = true) (hfirst : ∀ j : Fin n, j < i → p v[j] = false) :
    v.toList.find? p = some v[i] := by
  refine List.find?_eq_some_iff_getElem.mpr ⟨hi, i.val, by simp, by simp, fun j hj => ?_⟩
  have hlt : j < n := lt_trans hj i.isLt
  have hfails := hfirst ⟨j, hlt⟩ hj
  simp only [Fin.getElem_fin] at hfails
  simp [hfails]

theorem mem_toList_iff {α : Type} {n : Nat} (v : Vector α n) (x : α) :
    x ∈ v.toList ↔ ∃ i : Fin n, v[i] = x := by
  rw [Vector.mem_toList_iff, Vector.mem_iff_getElem]
  exact ⟨fun ⟨i, hi, h⟩ => ⟨⟨i, hi⟩, h⟩, fun ⟨i, h⟩ => ⟨i.val, i.isLt, h⟩⟩

theorem find_toList_eq_none {α : Type} {n : Nat} (v : Vector α n) {p : α → Bool}
    (h : ∀ i : Fin n, p v[i] = false) : v.toList.find? p = none := by
  refine List.find?_eq_none.mpr fun x hx => ?_
  obtain ⟨i, rfl⟩ := (mem_toList_iff v x).mp hx
  simp only [h i]
  exact Bool.false_ne_true

/-- The search of a table succeeds exactly where an element passes. -/
theorem find_toList_isSome {α : Type} {n : Nat} (v : Vector α n) (p : α → Bool) :
    (v.toList.find? p).isSome = true ↔ ∃ i : Fin n, p v[i] = true := by
  rw [List.find?_isSome]
  exact ⟨fun ⟨x, hx, hp⟩ => by
      obtain ⟨i, rfl⟩ := (mem_toList_iff v x).mp hx
      exact ⟨i, hp⟩,
    fun ⟨i, hp⟩ => ⟨v[i], (mem_toList_iff v _).mpr ⟨i, rfl⟩, hp⟩⟩

/-! ### Which fields a setup word sets (R156, section 11.3) -/

theorem setSetupWord_general {n : Nat} (hn : n < 64) (d : Word) (u : Setup) :
    setSetupWord n d u = { u with general := setGeneralWord n d u.general } := if_pos hn

/-- Offsets 27 to 63 hold no general field. -/
theorem setGeneralWord_unused {n : Nat} (hn : 27 ≤ n) (d : Word) (g : General) :
    setGeneralWord n d g = g := by
  obtain ⟨k, rfl⟩ := Nat.exists_eq_add_of_le' hn
  rfl

theorem setSetupWord_window (e : Fin 7) {k : Nat} (hk : k < 4) (d : Word) (u : Setup) :
    setSetupWord (64 + 4 * e.val + k) d u =
      { u with windows := u.windows.set e (setWindowWord k d u.windows[e]) } := by
  have he := e.isLt
  have hentry : (64 + 4 * e.val + k - 64) / 4 = e.val := by omega
  have hword : (64 + 4 * e.val + k - 64) % 4 = k := by omega
  unfold setSetupWord
  rw [if_neg (by omega), if_pos (by omega), hentry, hword, updateAt_of_lt]

theorem setSetupWord_voice (v : Fin 4) {k : Nat} (hk : k < 16) (d : Word) (u : Setup) :
    setSetupWord (128 + 16 * v.val + k) d u =
      { u with voices := updateAt u.voices v.val (setVoiceWord k d) } := by
  have hv := v.isLt
  have hvoice : (128 + 16 * v.val + k - 128) / 16 = v.val := by omega
  have hword : (128 + 16 * v.val + k - 128) % 16 = k := by omega
  unfold setSetupWord
  rw [if_neg (by omega), if_neg (by omega), if_neg (by omega), if_pos (by omega), hvoice, hword]

/-- Words 3 to 15 of a voice setup hold no field. -/
theorem setVoiceWord_unused {k : Nat} (hk : 3 ≤ k) (d : Word) (v : VoiceSetup) :
    setVoiceWord k d v = v := by
  obtain ⟨n, rfl⟩ := Nat.exists_eq_add_of_le' hk
  rfl

theorem setSetupWord_scale (n : Fin 8) (d : Word) (u : Setup) : setSetupWord (192 + n.val) d u =
    { u with scales := u.scales.set n (d.extractLsb' 0 12) } := by
  have hn := n.isLt
  have hindex : 192 + n.val - 192 = n.val := by omega
  unfold setSetupWord
  rw [if_neg (by omega), if_neg (by omega), if_neg (by omega), if_neg (by omega), if_pos (by omega),
    hindex, updateAt_of_lt]

theorem setSetupWord_shape (n : Fin 16) (d : Word) (u : Setup) : setSetupWord (208 + n.val) d u =
    { u with shapes := u.shapes.set n (d.extractLsb' 0 12) } := by
  have hn := n.isLt
  have hindex : 208 + n.val - 208 = n.val := by omega
  unfold setSetupWord
  rw [if_neg (by omega), if_neg (by omega), if_neg (by omega), if_neg (by omega), if_neg (by omega),
    if_neg (by omega), if_pos (by omega), hindex, updateAt_of_lt]

/-- Settles O27: each area of the control window by its own lemma. -/
theorem setupWordLayout : Obligations.SetupWordLayout := by
  intro d u
  refine ⟨rfl, rfl, rfl, rfl, rfl, rfl, rfl, rfl, rfl, rfl, rfl, fun n hlow hhigh => ?_, fun e => ?_,
    fun v => ?_, fun n => setSetupWord_scale n d u, fun n => setSetupWord_shape n d u⟩
  · rw [setSetupWord_general (by omega), setGeneralWord_unused hlow]
  · have hword {k : Nat} (hk : k < 4) := setSetupWord_window e hk d u
    refine ⟨hword (k := 0) (by omega), ?_, ?_, ?_⟩
    · rw [show 65 + 4 * e.val = 64 + 4 * e.val + 1 by omega, hword (by omega)]
      rfl
    · rw [show 66 + 4 * e.val = 64 + 4 * e.val + 2 by omega, hword (by omega)]
      rfl
    · rw [show 67 + 4 * e.val = 64 + 4 * e.val + 3 by omega, hword (by omega)]
      rfl
  · have hword {k : Nat} (hk : k < 16) := setSetupWord_voice v hk d u
    refine ⟨?_, ?_, ?_, fun k hlow hhigh => ?_⟩
    · rw [show 128 + 16 * v.val = 128 + 16 * v.val + 0 by omega, hword (by omega), updateAt_of_lt]
      rfl
    · rw [show 129 + 16 * v.val = 128 + 16 * v.val + 1 by omega, hword (by omega), updateAt_of_lt]
      rfl
    · rw [show 130 + 16 * v.val = 128 + 16 * v.val + 2 by omega, hword (by omega), updateAt_of_lt]
      rfl
    · rw [hword (by omega), updateAt_id _ _ (setVoiceWord_unused hlow d)]

/-! ### The deciding window (R141, R142) -/

theorem contains_iff {e : WindowEntry} {a : Addr} : e.contains a = true ↔
    Role.ofCode e.role ≠ none ∧ Role.ofCode e.role ≠ some .off ∧ e.base.toNat ≤ a.toNat ∧
      a.toNat < e.base.toNat + e.size.toNat := by
  simp only [WindowEntry.contains, decide_eq_true_eq]
  tauto

/-- Outside the control window the entries in effect 1 to 7 decide. -/
theorem decidingEntry_outside {s : State} (h : controlPlaced s) {a : Addr}
    (hout : a.toNat < s.map.entry0.base.toNat ∨ s.map.entry0.base.toNat + 1024 ≤ a.toNat) :
    decidingEntry s a =
      if s.setup.engine = .idle then none else s.map.entries.toList.find? fun e => e.contains a := by
  have hcontrol : s.map.entry0.contains a = false := by
    obtain ⟨cwb, hcwb⟩ := h
    have hsize : s.map.entry0.size.toNat = 1024 := by rw [hcwb]; rfl
    rw [← Bool.not_eq_true, contains_iff, hsize]
    omega
  unfold decidingEntry entriesInEffect
  cases s.setup.engine <;> simp [hcontrol]

/-- Settles O29. -/
theorem lowestEntryDecides : Obligations.LowestEntryDecides := by
  intro s a hplaced base lies
  have hcontains (e : WindowEntry) : e.contains a = false ↔ ¬ lies e := by
    rw [← Bool.not_eq_true]
    exact not_congr contains_iff
  refine ⟨classify_control hplaced, fun hout hidle => ?_, fun hout hactive => ⟨fun hnone => ?_,
    fun n hn hfirst => ?_⟩⟩
  · simp only [classify, decidingEntry_outside hplaced hout, if_pos hidle]
  · have hmiss := find_toList_eq_none s.map.entries (p := fun e => e.contains a)
      fun i => (hcontains _).mpr (hnone i)
    simp only [classify, decidingEntry_outside hplaced hout, if_neg hactive, hmiss]
  · have hfound := find_toList_eq_some s.map.entries (p := fun e => e.contains a) n
      (contains_iff.mpr hn) fun j hj => (hcontains _).mpr (hfirst j hj)
    obtain ⟨r, hr⟩ := Option.ne_none_iff_exists'.mp hn.1
    refine ⟨r, hr, ?_⟩
    simp only [classify, decidingEntry_outside hplaced hout, if_neg hactive, hfound, hr,
      Option.map_some]

/-! ### Writes (R144 to R149) -/

theorem takeControlWrite_setup {n : Nat} (hn : (16 ≤ n ∧ n ≤ 91) ∨ (128 ≤ n ∧ n ≤ 199) ∨
    (208 ≤ n ∧ n ≤ 223)) (s : State) (a : Addr) (d : Word) :
    takeControlWrite s n a d = takeSetupWord (postWrite s a d) n d := by
  have hsetup : isSetupOffset n = true := decide_eq_true hn
  unfold takeControlWrite
  rw [if_neg (by omega), if_neg (by omega), if_pos hsetup]

/-- A plain offset of the control window is posted and nothing else (R145). -/
theorem takeControlWrite_plain {n : Nat} (hn : (3 ≤ n ∧ n ≤ 15) ∨ (92 ≤ n ∧ n ≤ 127) ∨
    (200 ≤ n ∧ n ≤ 207) ∨ 224 ≤ n) (s : State) (a : Addr) (d : Word) :
    takeControlWrite s n a d = postWrite s a d := by
  have hplain : ¬ isSetupOffset n = true := by
    simp only [isSetupOffset, decide_eq_true_eq]
    omega
  unfold takeControlWrite
  rw [if_neg (by omega), if_neg (by omega), if_neg hplain]

/-- Settles O28. -/
theorem setupWriteSetsShadow : Obligations.SetupWriteSetsShadow := by
  intro s a d offset hfree hroom hcommand hplace hoffset
  have htaken : exec (.setupWrite a d) s = _ :=
    processorWrite_taken (d := d) hfree (Or.inl hcommand) (Or.inl hroom)
  rw [htaken, hplace]
  exact congrArg (fun t => Host.Outcome.next (grant t))
    (takeControlWrite_setup hoffset (beginStep s) a d)

/-- A write joined to the queue is what a read of its word sees. -/
theorem visibleWord_posted {s t : State} {a : Addr} {d : Word}
    (hqueue : t.bus.queue = s.bus.queue ++ [⟨a, d⟩]) (hmem : t.mem = s.mem) :
    visibleWord t a = d ∧ ∀ b : Addr, b ≠ a → visibleWord t b = visibleWord s b := by
  unfold visibleWord loadWord
  rw [hqueue, hmem]
  refine ⟨by rw [forwarded_append_same]; rfl, fun b hb => ?_⟩
  rw [forwarded_append_other _ _ (Ne.symm hb)]

/-- Settles O30. -/
theorem postedWriteJoinsQueue : Obligations.PostedWriteJoinsQueue := by
  intro s a d hfree hroom hplace
  have hwaits : s.setup.command = none ∨ waitsForCommand (classify s a) = false := by
    rcases hplace with h | ⟨_, _, h, _⟩ | ⟨_, h, _⟩
    · exact Or.inr (by rw [h]; rfl)
    · exact Or.inl h
    · exact Or.inr (by rw [h]; rfl)
  have hposted : takeWrite (beginStep s) (classify s a) a d = postWrite (beginStep s) a d := by
    rcases hplace with h | ⟨n, h, _, hn⟩ | ⟨n, h, hhalted⟩
    · rw [h]; rfl
    · rw [h]; exact takeControlWrite_plain hn _ a d
    · rw [h]
      simp only [takeWrite, takeInputWrite, beginStep_setup, hhalted]
  have htaken : exec (.postedWrite a d) s = _ := processorWrite_taken hfree hwaits (Or.inl hroom)
  rw [htaken, hposted]
  obtain ⟨hsame, hothers⟩ := visibleWord_posted (s := s) (t := grant (postWrite (beginStep s) a d))
    (by rw [grant_queue]; rfl) (by rw [grant_mem]; rfl)
  exact ⟨_, rfl, rfl, hsame, hothers⟩

/-- The ring size is the REPORT entry's N. -/
theorem ringSize_of_entry {s : State} {w : WindowEntry} (h : reportEntry s = some w) :
    ringSize s = w.records.toNat := by
  simp [ringSize, h]

/-- A consumer index is taken below N and not past p (R175). -/
theorem consumerTaken_iff {s : State} {w : WindowEntry} (h : reportEntry s = some w) (v : Word) :
    consumerTaken s v = true ↔ v.toNat < w.records.toNat ∧
      (v.toNat + w.records.toNat - s.rpt.consumer) % w.records.toNat ≤
        (s.rpt.producer + w.records.toNat - s.rpt.consumer) % w.records.toNat := by
  simp only [consumerTaken, unconsumedCount, ringDistance, ringSize_of_entry h, decide_eq_true_eq]

/-- A write is held for a command where its window waits for one in progress (R148). -/
theorem presentWrite_heldForCommand {s : State} {a : Addr} {d : Word} (hc : s.bus.cycle = none)
    (hcommand : s.setup.command ≠ none) (hplace : waitsForCommand (classify s a) = true) :
    presentWrite s a d = holdCycle s (.writeForCommand a d) := by
  have hheld : (s.setup.command.isSome && waitsForCommand (classify s a)) = true := by
    rw [hplace, Bool.and_true, Option.isSome_iff_ne_none]
    exact hcommand
  unfold presentWrite
  rw [releaseCycle_of_none hc]
  exact if_pos hheld

/-- A write to be posted is held for room at a full queue (R149). -/
theorem presentWrite_heldForRoom {s : State} {a : Addr} {d : Word} (hc : s.bus.cycle = none)
    (hcommand : s.setup.command = none ∨ waitsForCommand (classify s a) = false)
    (hpost : wouldPost s (classify s a) d = true) (hfull : 8 ≤ s.bus.queue.length) :
    presentWrite s a d = holdCycle s (.writeForRoom a d) := by
  have hgo : (s.setup.command.isSome && waitsForCommand (classify s a)) = false := by
    rcases hcommand with h | h <;> simp [h]
  have hheld : (wouldPost s (classify s a) d && queueFull s) = true := by
    simp [hpost, queueFull, Config.postQueueSize, hfull]
  unfold presentWrite
  rw [releaseCycle_of_none hc]
  dsimp only
  rw [hgo, hheld]
  rfl

/-- A write presented again is the write presented afresh. -/
theorem exec_postedWrite_released {s : State} (hhigh : s.resetLow = false) (a : Addr) (d : Word) :
    exec (.postedWrite a d) { s with bus := { s.bus with cycle := none } } =
      .next (grant (presentWrite (beginStep s) a d)) :=
  processorCycle_free (s := { s with bus := { s.bus with cycle := none } }) ⟨rfl, hhigh⟩
    (.writeInReset a d) fun u => presentWrite u a d

/-- Settles O31. -/
theorem heldWritesAreTakenLater : Obligations.HeldWritesAreTakenLater := by
  intro s a d
  have hpresented (hfree : portFree s) : exec (.postedWrite a d) s =
      .next (grant (presentWrite (beginStep s) a d)) :=
    processorCycle_free hfree (.writeInReset a d) fun u => presentWrite u a d
  refine ⟨fun hfree hfull hplace => ?_, fun hfree hcommand hplace => ?_, fun hheld hhigh hroom => ?_,
    fun hheld hhigh hcommand => ?_⟩
  · have hroom : presentWrite (beginStep s) a d = holdCycle (beginStep s) (.writeForRoom a d) := by
      rcases hplace with h | ⟨n, h⟩ | ⟨hcommand, h⟩
      · exact presentWrite_heldForRoom hfree.1 (Or.inr (by simp [h, waitsForCommand]))
          (by simp [h, wouldPost]) hfull
      · exact presentWrite_heldForRoom hfree.1 (Or.inr (by simp [h, waitsForCommand]))
          (by simp [h, wouldPost]) hfull
      · refine presentWrite_heldForRoom hfree.1 (Or.inl hcommand) ?_ hfull
        rcases h with ⟨n, h, h₁, h₂⟩ | ⟨h, w, hw, htaken⟩
        · simp [h, wouldPost, h₁, h₂]
        · simpa [h, wouldPost] using (consumerTaken_iff (s := beginStep s) hw d).mpr htaken
    rw [hpresented hfree, hroom]
    rfl
  · have hwaits : waitsForCommand (classify s a) = true := by
      obtain ⟨n, h | h⟩ := hplace
      · rw [h]; rfl
      · rw [h]; rfl
    rw [hpresented hfree, presentWrite_heldForCommand (s := beginStep s) hfree.1 hcommand hwaits]
    rfl
  · refine ⟨_, ?_, exec_postedWrite_released hhigh a d⟩
    have hspace : queueFull (beginStep s) = false :=
      decide_eq_false (Nat.not_le.mpr hroom)
    show execWriteTakenAfterRoom s = _
    simp [execWriteTakenAfterRoom, hheld, hspace]
  · refine ⟨_, ?_, exec_postedWrite_released hhigh a d⟩
    show execWriteTakenAfterCommand s = _
    simp [execWriteTakenAfterCommand, hheld, hcommand]

/-- Settles O32. -/
theorem droppedWriteRaisesWindowFault : Obligations.DroppedWriteRaisesWindowFault := by
  intro s a d r n hfree hplace hwhy
  have hwaits : s.setup.command = none ∨ waitsForCommand (classify s a) = false := by
    rcases hwhy with rfl | rfl | ⟨h, _⟩
    · exact Or.inr (by rw [hplace]; rfl)
    · exact Or.inr (by rw [hplace]; rfl)
    · exact Or.inl h
  have hdropped : wouldPost s (classify s a) d = false := by
    rcases hwhy with rfl | rfl | ⟨_, ⟨rfl, h⟩ | ⟨rfl, h⟩⟩
    · rw [hplace]; rfl
    · rw [hplace]; rfl
    · rcases h with rfl | rfl <;> simp [hplace, wouldPost]
    · simp [hplace, wouldPost, h]
  have htakes : takeWrite (beginStep s) (some (r, n)) a d = dropWrite (beginStep s) r a d := by
    rcases hwhy with rfl | rfl | ⟨_, ⟨rfl, h⟩ | ⟨rfl, h⟩⟩
    · rfl
    · rfl
    · rcases h with rfl | rfl <;> rfl
    · exact if_neg h
  have htaken : exec (.windowFault a d) s = _ := processorWrite_taken hfree hwaits (Or.inr hdropped)
  rw [htaken, hplace, htakes]
  exact congrArg (fun t => Host.Outcome.next (grant t))
    (raiseEvent_from (s := s) (t := beginStep s) _ rfl rfl rfl rfl)

end Sys2Proof.Machine
end

section
/-! PROOFS. The Report Unit: events, records, the consumer index and the attention line. -/

namespace Sys2Proof.Machine

/-! ### Events (R172) -/

/-- The map holds a REPORT entry exactly where one of its entries has that role. -/
theorem reportEntry_isSome_iff (s : State) : (reportEntry s).isSome = true ↔
    ∃ n : Fin 7, Role.ofCode s.map.entries[n].role = some .report := by
  unfold reportEntry
  rw [find_toList_isSome]
  simp only [decide_eq_true_eq]

theorem qualifies_iff (s : State) (kind : EventKind) : qualifies s kind = true ↔
    s.setup.engine ≠ .idle ∧
      (∃ n : Fin 7, Role.ofCode s.map.entries[n].role = some .report) ∧
      s.setup.active.general.eventMask.getLsbD (kind.number - 1) = true := by
  rw [← reportEntry_isSome_iff]
  simp only [qualifies, maskHas, Bool.and_eq_true, decide_eq_true_eq, and_assoc]

/-- Settles O57. -/
theorem eventsReachTheQueue : Obligations.EventsReachTheQueue := by
  intro s e recorded
  have hqualifies : qualifies s e.kind = true ↔ recorded := qualifies_iff s e.kind
  refine ⟨fun h hroom => ?_, fun h hfull => ?_, fun h => ?_⟩
  · unfold raiseEvent
    rw [if_pos (hqualifies.mpr h), if_pos hroom]
  · unfold raiseEvent
    rw [if_pos (hqualifies.mpr h), if_neg (Nat.not_lt.mpr hfull)]
  · unfold raiseEvent
    rw [if_neg (mt hqualifies.mp h)]

/-! ### The attention line (R178, R179) -/

theorem unconsumedCount_of_entry {s : State} {w : WindowEntry} (h : reportEntry s = some w) :
    unconsumedCount s =
      (s.rpt.producer + w.records.toNat - s.rpt.consumer) % w.records.toNat := by
  simp only [unconsumedCount, ringDistance, ringSize_of_entry h]

theorem ringInEffect_iff {s : State} : ringInEffect s = true ↔
    s.setup.engine ≠ .idle ∧ s.rpt.ringWritten = true ∧ ∃ w, reportEntry s = some w := by
  simp only [ringInEffect, Bool.and_eq_true, decide_eq_true_eq, Option.isSome_iff_exists]
  tauto

theorem timeoutReached_iff {s : State} : timeoutReached s = true ↔
    s.setup.active.general.timeout.toNat ≠ 0 ∧ ∃ r, s.rpt.unconsumed.head? = some r ∧
      s.setup.active.general.timeout.toNat ≤ (s.rpt.hopCounter - r.hop).toNat := by
  unfold timeoutReached
  cases s.rpt.unconsumed with
  | nil => simp
  | cons r rest =>
    refine decide_eq_true_iff.trans ?_
    simp only [recordAge, List.head?_cons, Option.some.injEq, exists_eq_left']

/-- Without a ring in effect the line is negated. -/
theorem attention_without_ring {s : State} (h : ringInEffect s = false) : attention s = false := by
  simp [attention, h]

/-- Settles O60. -/
theorem attentionLine : Obligations.AttentionLine := by
  intro s g
  refine ⟨?_, fun h => attention_without_ring ?_, fun hlow => by simp [attnPin, hlow],
    fun hhigh => by simp [attnPin, hhigh]⟩
  · simp only [attention, Bool.and_eq_true, ringInEffect_iff, Bool.or_eq_true, decide_eq_true_eq,
      timeoutReached_iff, List.any_eq_true, maskHas]
    constructor
    · rintro ⟨⟨hengine, hwritten, w, hw⟩, hwhy⟩
      rw [unconsumedCount_of_entry hw] at hwhy
      exact ⟨hengine, hwritten, w, hw, or_assoc.mp hwhy⟩
    · rintro ⟨hengine, hwritten, w, hw, hwhy⟩
      rw [unconsumedCount_of_entry hw]
      exact ⟨⟨hengine, hwritten, w, hw⟩, or_assoc.mpr hwhy⟩
  · rw [← Bool.not_eq_true, ringInEffect_iff]
    rintro ⟨hengine, hwritten, w, hw⟩
    rcases h with h | h | h
    · exact hengine h
    · simp [hw] at h
    · simp [hwritten] at h

/-! ### The consumer index (R175) -/

/-- Settles O59. -/
theorem consumerIndexWrites : Obligations.ConsumerIndexWrites := by
  intro s a v w hfree hcommand hplace hw size ahead unconsumed
  have htaken : consumerTaken (beginStep s) v = true ↔ v.toNat < size ∧ ahead ≤ unconsumed :=
    consumerTaken_iff (s := beginStep s) hw v
  have hsize : ringSize s = size := ringSize_of_entry hw
  refine ⟨fun hroom hbelow hahead => ?_, fun hwhy => ?_⟩
  · have hexec : exec (.consumerIndexWrite a v) s = _ :=
      processorWrite_taken (d := v) hfree (Or.inl hcommand) (Or.inl hroom)
    have htakes : takeWrite (beginStep s) (some (.report, 1)) a v =
        takeConsumer (postWrite (beginStep s) a v) v :=
      if_pos (htaken.mpr ⟨hbelow, hahead⟩)
    rw [hexec, hplace, htakes]
    have hdistance : ringDistance (ringSize (postWrite (beginStep s) a v))
        (postWrite (beginStep s) a v).rpt.consumer v.toNat = ahead := by
      have hsame : ringSize (postWrite (beginStep s) a v) = size := hsize
      rw [hsame]
      rfl
    unfold takeConsumer
    rw [hdistance]
    rfl
  · have hmissed : ¬ consumerTaken (beginStep s) v = true := by
      rw [htaken]
      omega
    have hdropped : wouldPost s (classify s a) v = false := by
      rw [hplace]
      have hkept : consumerTaken s v = false := Bool.eq_false_iff.mpr hmissed
      simp [wouldPost, hkept]
    have hexec : exec (.consumerIndexWrite a v) s = _ :=
      processorWrite_taken hfree (Or.inl hcommand) (Or.inr hdropped)
    have htakes : takeWrite (beginStep s) (some (.report, 1)) a v =
        raiseEvent (beginStep s) (reportIndexEvent (beginStep s) v) := if_neg hmissed
    rw [hexec, hplace, htakes]
    exact congrArg (fun t => Host.Outcome.next (grant t))
      (raiseEvent_from (s := s) (t := beginStep s) _ rfl rfl rfl rfl)

/-! ### Records (R174) -/

theorem ringAwaited_iff (s : State) : ringAwaited s = true ↔
    ∃ c, s.setup.command = some c ∧ c.touchesRing = true := by
  unfold ringAwaited
  cases s.setup.command with
  | none => simp
  | some c => simp

/-- When a record may start: a ring in effect with room, an event queued, none in flight, and no command that
touches the ring. -/
theorem recordReady_iff (s : State) : recordReady s = true ↔
    (s.setup.engine ≠ .idle ∧ s.rpt.ringWritten = true ∧ ∃ w, reportEntry s = some w) ∧
      s.rpt.queue ≠ [] ∧ (∀ c, s.setup.command = some c → c.touchesRing = false) ∧
      s.rpt.record = none ∧ unconsumedCount s + 1 < ringSize s := by
  have hawaited : ringAwaited s = false ↔ ∀ c, s.setup.command = some c → c.touchesRing = false := by
    rw [← Bool.not_eq_true, ringAwaited_iff]
    simp
  simp only [recordReady, Bool.and_eq_true, decide_eq_true_eq, ringInEffect_iff, Bool.not_eq_true',
    hawaited, Option.isNone_iff_eq_none, List.isEmpty_eq_false_iff, and_assoc]

theorem startReadyRecord_idle {s : State} (h : recordReady s = false) : startReadyRecord s = s := by
  simp [startReadyRecord, h]

/-- REPORT_RECORD_START where no record may start. -/
theorem recordStart_idle {s : State} (h : recordReady s = false) :
    startReadyRecord s = s ∧ exec .reportRecordStart s = .next { s with pd := none } := by
  refine ⟨startReadyRecord_idle h, ?_⟩
  have hbegun : recordReady (beginStep s) = false := h
  show execReportRecordStart s = _
  simp only [execReportRecordStart, hbegun]
  rfl

/-- REPORT_RECORD_START where one may. -/
theorem recordStart_ready {s : State} (h : recordReady s = true) :
    exec .reportRecordStart s = .next (grant (startReadyRecord (beginStep s))) := by
  have hbegun : recordReady (beginStep s) = true := h
  show execReportRecordStart s = _
  simp only [execReportRecordStart, hbegun]
  rfl

theorem startReadyRecord_ready {s : State} (h : recordReady s = true) {e : Event} {rest : List Event}
    (hqueue : s.rpt.queue = e :: rest) : startReadyRecord s = startRecordOf s e rest := by
  simp only [startReadyRecord, h, if_true, hqueue]

/-- The record words at slot p, in the layout of section 11.5. -/
theorem startRecordOf_eq {s : State} {w : WindowEntry} (hw : reportEntry s = some w) (e : Event)
    (rest : List Event) :
    let word (k : Fin 4) (d : Word) : PartWrite :=
      ⟨.record k, w.base + BitVec.ofNat 20 (16 + 4 * s.rpt.producer + k.val), d⟩
    startRecordOf s e rest = { s with
      rpt := { s.rpt with queue := rest, lost := false, record := some e.kind }
      bus := { s.bus with requests := s.bus.requests ++
        [word 0 (BitVec.ofBool s.rpt.lost ++ 0#7 ++ voiceField e.voice ++ e.detail ++
            BitVec.ofNat 8 e.kind.number),
          word 1 e.stamp, word 2 e.value, word 3 e.second] } } := by
  intro word
  have haddr (n : Nat) : reportAddr s n = w.base + BitVec.ofNat 20 n := by simp [reportAddr, hw]
  have hword (k : Fin 4) : recordWrite s e k = word k (recordWordOf e s.rpt.lost k) := by
    simp only [recordWrite, haddr, word]
  simp only [startRecordOf, requestWrites, List.map_cons, List.map_nil, hword]
  rfl

/-- Settles O58. -/
theorem recordsAreWritten : Obligations.RecordsAreWritten := by
  refine ⟨fun s w e rest hw hengine hwritten hqueue => ⟨fun hrecord hcommand hroom => ?_, fun hwhy => ?_⟩,
    fun s hwhy => recordStart_idle ?_, fun s a d k hwf hport hheld => ?_,
    fun s a d w k hwf hw hrecord hport hheld => ?_⟩
  · intro word started
    have hready : recordReady s = true := by
      rw [recordReady_iff, unconsumedCount_of_entry hw, ringSize_of_entry hw]
      exact ⟨⟨hengine, hwritten, w, hw⟩, by simp [hqueue], hcommand, hrecord, hroom⟩
    refine ⟨(startReadyRecord_ready hready hqueue).trans (startRecordOf_eq hw e rest), ?_⟩
    rw [recordStart_ready hready, startReadyRecord_ready (s := beginStep s) hready hqueue]
    exact congrArg (fun t => Host.Outcome.next (grant t)) (startRecordOf_eq (s := beginStep s) hw e rest)
  · refine recordStart_idle ?_
    rw [← Bool.not_eq_true, recordReady_iff, unconsumedCount_of_entry hw, ringSize_of_entry hw]
    rintro ⟨_, _, hcommand, hrecord, hroom⟩
    rcases hwhy with h | ⟨c, hc, htouches⟩ | h
    · exact h hrecord
    · simp [hcommand c hc] at htouches
    · omega
  · rw [← Bool.not_eq_true, recordReady_iff]
    rintro ⟨⟨hengine, hwritten, w, hw⟩, hqueue, _⟩
    rcases hwhy with h | h | h | h
    · exact hengine h
    · simp [hw] at h
    · simp [hwritten] at h
    · exact hqueue h
  · obtain ⟨hnext, hload, hothers, hmem⟩ :=
      partWrite_done (owned := PartOwner.isRecord) rfl hwf hport hheld
    refine ⟨_, hnext, hload, hothers, fun hk => ?_, fun hk w hw => ?_⟩
    · have hdone (u : State) : ownerDone (.record k) u = u := if_neg hk
      rw [hmem, hdone]
      rfl
    · have hsize : (s.rpt.producer + 1) % w.records.toNat = nextProducer s := by
        rw [nextProducer, ringSize_of_entry hw]
      have hbase : w.base = reportAddr s 0 := by
        simp [reportAddr, hw]
      have hdone (u : State) : ownerDone (.record k) u =
          requestWrite u ⟨.producer, reportAddr u 0, producerWord (nextProducer u)⟩ := if_pos hk
      rw [hmem, hdone, hsize, hbase]
      rfl
  · obtain ⟨hnext, hload, hothers, hmem⟩ :=
      partWrite_done (owned := PartOwner.isProducer) rfl hwf hport hheld
    refine ⟨_, hnext, ?_, hload, hothers⟩
    have hsize : (s.rpt.producer + 1) % w.records.toNat = nextProducer s := by
      rw [nextProducer, ringSize_of_entry hw]
    have hproduced : [(⟨k, s.rpt.hopCounter⟩ : Produced)] =
        (s.rpt.record.map fun k => (⟨k, s.rpt.hopCounter⟩ : Produced)).toList := by
      rw [hrecord]
      rfl
    rw [hmem, hsize, hproduced]
    rfl

end Sys2Proof.Machine
end

section
/-! PROOFS. The taking of a command word, and when a command can complete. -/

namespace Sys2Proof.Machine

/-! ### The table of R166 -/

/-- The verdict on a command reads the Setup Unit and the map alone. -/
theorem verdict_congr {s t : State} (hsetup : t.setup = s.setup) (hmap : t.map = s.map) (code : Byte) :
    verdict t code = verdict s code := by
  simp only [verdict, validated, startTouchesRing, applyTouchesRing, hsetup, hmap]

theorem verdict_illegal {s : State} {code : Byte} (h : illegalIn code.toNat s.setup.engine) :
    verdict s code = .illegal := by
  unfold illegalIn at h
  unfold verdict
  split <;> simp_all

/-- A START outside RUNNING, or an APPLY outside IDLE, validates the shadow setup. -/
theorem verdict_validated {s : State} {code : Byte}
    (h : (code.toNat = 1 ∧ s.setup.engine ≠ .running) ∨ (code.toNat = 2 ∧ s.setup.engine ≠ .idle)) :
    verdict s code = validated s (if code.toNat = 1 then startTouchesRing s else applyTouchesRing s) := by
  rcases h with ⟨hcode, hengine⟩ | ⟨hcode, hengine⟩
  · cases he : s.setup.engine with
    | running => exact absurd he hengine
    | idle | halted => simp [verdict, hcode, he]
  · cases he : s.setup.engine with
    | idle => exact absurd he hengine
    | running | halted => simp [verdict, hcode, he]

theorem verdict_rejected {s : State} {code : Byte} {f : Failure}
    (h : (code.toNat = 1 ∧ s.setup.engine ≠ .running) ∨ (code.toNat = 2 ∧ s.setup.engine ≠ .idle))
    (hf : validate s.map.entry0 s.setup.shadow = some f) : verdict s code = .rejected f := by
  rw [verdict_validated h]
  simp only [validated, hf]

/-- STOP outside IDLE and RESTART in RUNNING have effects without validation. -/
theorem verdict_unvalidated {s : State} {code : Byte}
    (h : (code.toNat = 3 ∧ s.setup.engine ≠ .idle) ∨ (code.toNat = 4 ∧ s.setup.engine = .running)) :
    verdict s code = .effects false := by
  rcases h with ⟨hcode, hengine⟩ | ⟨hcode, hengine⟩
  · cases he : s.setup.engine with
    | idle => exact absurd he hengine
    | running | halted => simp [verdict, hcode, he]
  · simp [verdict, hcode, hengine]

/-! ### What the command makes of the ring (R163, R170) -/

theorem findRole_isSome_iff (es : Vector WindowEntry 7) (r : Role) :
    (findRole es r).isSome = true ↔ ∃ n : Fin 7, Role.ofCode es[n].role = some r := by
  unfold findRole
  rw [find_toList_isSome]
  simp only [decide_eq_true_eq]

theorem startTouchesRing_iff (s : State) : startTouchesRing s = true ↔
    (∃ n : Fin 7, Role.ofCode s.setup.shadow.windows[n].role = some .report) ∨
      ∃ n : Fin 7, Role.ofCode s.map.entries[n].role = some .report := by
  simp only [startTouchesRing, Bool.or_eq_true, findRole_isSome_iff]

/-- The ring is kept exactly where the REPORT window does not change (R170). -/
theorem ringChange_kept_iff (old new : Vector WindowEntry 7) : ringChange old new = .kept ↔
    (findRole old .report).map reportKey = (findRole new .report).map reportKey := by
  unfold ringChange
  cases (findRole old .report).map reportKey with
  | none => cases (findRole new .report).map reportKey <;> simp
  | some a =>
    cases (findRole new .report).map reportKey with
    | none => simp
    | some b => by_cases hab : a = b <;> simp [hab]

theorem applyTouchesRing_iff (s : State) : applyTouchesRing s = true ↔
    (findRole s.map.entries .report).map reportKey ≠
      (findRole s.setup.shadow.windows .report).map reportKey := by
  rw [applyTouchesRing, decide_eq_true_eq, Ne, ringChange_kept_iff]

/-! ### A command word taken (R145, R162) -/

theorem controlAddr_zero (s : State) : controlAddr s 0 = s.map.entry0.base := BitVec.add_zero _

/-- A command row writes its word into the Setup Unit, and posts it. -/
theorem exec_command {i : Instr} {d : Word} {s : State} (hi : i.commandWord? = some d)
    (hfree : portFree s) (hplaced : controlPlaced s) (hroom : hasRoom s)
    (hcommand : s.setup.command = none) :
    exec i s = .next (grant (takeCommand (postWrite (beginStep s) s.map.entry0.base d) d)) := by
  have hplace : classify s (controlAddr s 0) = some (.control, 0) :=
    classify_controlAddr hplaced (by omega)
  rw [exec_commandWord hi, processorWrite_taken hfree (Or.inl hcommand) (Or.inl hroom), hplace,
    controlAddr_zero]
  rfl

/-- A command word with effects at a Setup Unit at rest. -/
theorem takeCommand_effects {s : State} {d : Word} {touches : Bool} (hstatus : s.setup.status = none)
    (hverdict : verdict s (wordCode d) = .effects touches) : takeCommand s d = { s with
      setup := { s.setup with command := some ⟨wordCode d, wordSequence d, touches, false⟩ } } := by
  simp only [takeCommand, hstatus, hverdict]
  rfl

theorem takeCommand_illegal {s : State} {d : Word} (hstatus : s.setup.status = none)
    (hverdict : verdict s (wordCode d) = .illegal) :
    takeCommand s d = endCommand s ⟨wordSequence d, wordCode d, .illegal, .none, 0⟩ := by
  simp only [takeCommand, hstatus, hverdict]
  rfl

theorem takeCommand_rejected {s : State} {d : Word} {f : Failure} (hstatus : s.setup.status = none)
    (hverdict : verdict s (wordCode d) = .rejected f) :
    takeCommand s d = endCommand s ⟨wordSequence d, wordCode d, .rejected, f.reason, f.detail⟩ := by
  simp only [takeCommand, hstatus, hverdict]
  rfl

/-- A command word while the status word is being written is refused as busy (R165). -/
theorem takeCommand_busy {s : State} (hstatus : s.setup.status ≠ none) (d : Word) : takeCommand s d =
    requestRefusal s ⟨.refusal, controlAddr s 2, refusalWord (wordSequence d) (wordCode d)⟩ :=
  if_pos (Option.isSome_iff_ne_none.mpr hstatus)

/-- Settles O17. -/
theorem commandWithEffectsTaken : Obligations.CommandWithEffectsTaken := by
  intro i d s hi hfree hplaced hroom hrest hwhy holdsReport reportWindow
  obtain ⟨hcommand, hstatus⟩ := hrest
  have htaken (touches : Bool) (hverdict : verdict s (wordCode d) = .effects touches) :
      exec i s = .next (grant { s with
        pd := none
        setup := { s.setup with command := some ⟨wordCode d, wordSequence d, touches, false⟩ }
        bus := { s.bus with queue := s.bus.queue ++ [⟨s.map.entry0.base, d⟩] } }) := by
    have hposted : verdict (postWrite (beginStep s) s.map.entry0.base d) (wordCode d) = .effects touches :=
      (verdict_congr rfl rfl _).trans hverdict
    rw [exec_command hi hfree hplaced hroom hcommand,
      takeCommand_effects (s := postWrite (beginStep s) s.map.entry0.base d) hstatus hposted]
    rfl
  rcases hwhy with ⟨hcode, hengine, hvalid⟩ | ⟨hcode, hengine, hvalid⟩ | h | h
  · refine ⟨_, startTouchesRing s, htaken _ ?_, ?_, rfl⟩
    · rw [verdict_validated (Or.inl ⟨hcode, hengine⟩), if_pos hcode]
      simp only [validated, hvalid]
    · rw [startTouchesRing_iff, hcode]
      simp [holdsReport]
  · refine ⟨_, applyTouchesRing s, htaken _ ?_, ?_, rfl⟩
    · rw [verdict_validated (Or.inr ⟨hcode, hengine⟩), if_neg (by omega)]
      simp only [validated, hvalid]
    · rw [applyTouchesRing_iff, hcode]
      exact ⟨fun h => Or.inr ⟨rfl, h⟩, fun h => h.elim (fun hone => absurd hone.1 (by decide)) And.right⟩
  · exact ⟨_, false, htaken _ (verdict_unvalidated (Or.inl h)), by simp [h.1], rfl⟩
  · exact ⟨_, false, htaken _ (verdict_unvalidated (Or.inr h)), by simp [h.1], rfl⟩

/-- A command word without effects at a Setup Unit at rest: its status word is requested (R163, R164). -/
theorem exec_command_ends {i : Instr} {d : Word} {s : State} (hi : i.commandWord? = some d)
    (hfree : portFree s) (hplaced : controlPlaced s) (hroom : hasRoom s) (hrest : setupAtRest s)
    {result : CommandResult} {reason : Reason} {detail : Byte}
    (htakes : ∀ t : State, t.setup = s.setup → t.map = s.map →
      takeCommand t d = endCommand t ⟨wordSequence d, wordCode d, result, reason, detail⟩) :
    exec i s = .next (grant { s with
      pd := none
      setup := { s.setup with
        status := some ⟨d.extractLsb' 8 8, d.extractLsb' 0 8, result, reason, detail⟩ }
      bus := { s.bus with
        queue := s.bus.queue ++ [⟨s.map.entry0.base, d⟩]
        requests := s.bus.requests ++ [⟨.status, s.map.entry0.base + 1,
          0#6 ++ s.setup.engine.code ++ detail ++ reason.code ++ result.code ++
            d.extractLsb' 8 8⟩] } }) := by
  obtain ⟨hcommand, _⟩ := hrest
  rw [exec_command hi hfree hplaced hroom hcommand,
    htakes (postWrite (beginStep s) s.map.entry0.base d) rfl rfl]
  unfold endCommand
  rw [← hcommand]
  rfl

/-- Settles O19. -/
theorem commandRefusedAsBusy : Obligations.CommandRefusedAsBusy := by
  intro i d s hi hfree hplaced hroom hcommand hstatus refusal refused
  have hexec := exec_command hi hfree hplaced hroom hcommand
  rw [takeCommand_busy (s := postWrite (beginStep s) s.map.entry0.base d) hstatus] at hexec
  refine ⟨fun hnone => ?_, fun before old after hrequests hold hothers => ?_⟩
  · have hfirst : ¬ s.bus.requests.any (fun x => decide (x.owner = .refusal)) = true := by
      simpa using hnone
    rw [hexec]
    exact congrArg (fun t => Host.Outcome.next (grant t)) (if_neg hfirst)
  · have hstands : s.bus.requests.any (fun x => decide (x.owner = .refusal)) = true := by
      simp [hrequests, hold]
    have hkept (l : List PartWrite) (hl : ∀ w ∈ l, w.owner ≠ .refusal) :
        l.map (fun x => if x.owner = .refusal then refusal else x) = l := by
      refine (List.map_congr_left fun w hw => ?_).trans (List.map_id l)
      exact if_neg (hl w hw)
    have hreplaced : s.bus.requests.map (fun x => if x.owner = .refusal then refusal else x) =
        before ++ refusal :: after := by
      rw [hrequests, List.map_append, List.map_cons, if_pos hold,
        hkept before fun w hw => hothers w (List.mem_append_left _ hw),
        hkept after fun w hw => hothers w (List.mem_append_right _ hw)]
    rw [hexec, ← hreplaced]
    exact congrArg (fun t => Host.Outcome.next (grant t)) (if_pos hstands)

/-! ### When a command can complete (R163) -/

theorem tapInFlight_iff (s : State) : tapInFlight s = true ↔ ∃ r, s.bus.cycle = some (.tap r) := by
  unfold tapInFlight
  split
  · rename_i r h
    exact ⟨fun _ => ⟨r, h⟩, fun _ => rfl⟩
  · rename_i h
    exact ⟨nofun, fun ⟨r, hr⟩ => absurd hr (h r)⟩

/-- Settles O20. -/
theorem completionWaits : Obligations.CompletionWaits := by
  intro s c hc
  refine ⟨?_, fun hwaits => ?_⟩
  · have htap : tapInFlight s = false ↔ ∀ r, s.bus.cycle ≠ some (.tap r) := by
      rw [← Bool.not_eq_true, tapInFlight_iff, not_exists]
    have hring : (!c.touchesRing || s.rpt.record.isNone) = true ↔
        (c.touchesRing = true → s.rpt.record = none) := by
      cases c.touchesRing <;> simp
    simp only [canComplete, Bool.and_eq_true, Bool.not_eq_true', htap, hring, and_assoc]
  · have hbegun : canComplete (beginStep s) c = false := hwaits
    show execCommandCompletion s = _
    simp only [execCommandCompletion, beginStep_setup, hc, hbegun]
    rfl

end Sys2Proof.Machine
end

section
/-! PROOFS. Validation: each check of R161 against what it asks of the setup, and the first failure. -/

namespace Sys2Proof.Machine

/-! ### The first entry that fails, with its number -/

/-- The numbered search of a table finds its first element that passes, with its number. -/
theorem find_zipIdx_eq_some {α : Type} {n k : Nat} (v : Vector α n) {p : α → Bool} (i : Fin n)
    (hi : p v[i] = true) (hfirst : ∀ j : Fin n, j < i → p v[j] = false) :
    (v.toList.zipIdx k).find? (fun x => p x.1) = some (v[i], k + i.val) := by
  refine List.find?_eq_some_iff_getElem.mpr ⟨hi, i.val, by simp, by simp, fun j hj => ?_⟩
  have hfails := hfirst ⟨j, lt_trans hj i.isLt⟩ hj
  simp only [Fin.getElem_fin] at hfails
  simp [hfails]

theorem mem_zipIdx_iff {α : Type} {n k : Nat} (v : Vector α n) (x : α × Nat) :
    x ∈ v.toList.zipIdx k ↔ ∃ i : Fin n, x = (v[i], k + i.val) := by
  rw [List.mem_iff_getElem]
  constructor
  · rintro ⟨i, hi, rfl⟩
    have hlt : i < n := by simpa using hi
    exact ⟨⟨i, hlt⟩, by simp⟩
  · rintro ⟨i, rfl⟩
    exact ⟨i.val, by simp, by simp⟩

theorem find_zipIdx_eq_none {α : Type} {n k : Nat} (v : Vector α n) {p : α → Bool}
    (h : ∀ i : Fin n, p v[i] = false) : (v.toList.zipIdx k).find? (fun x => p x.1) = none := by
  refine List.find?_eq_none.mpr fun x hx => ?_
  obtain ⟨i, rfl⟩ := (mem_zipIdx_iff v x).mp hx
  simp only [h i]
  exact Bool.false_ne_true

/-- The number of the first element that fails a check is its detail. -/
theorem failLowest_filter {α : Type} (reason : Reason) (l : List α) (p : α → Bool) (f : α → Nat) :
    failLowest reason ((l.filter p).map f) =
      (l.find? p).map fun x => ⟨reason, BitVec.ofNat 8 (f x)⟩ := by
  unfold failLowest
  rw [List.head?_map, List.head?_filter, Option.map_map]
  rfl

theorem failUnless_eq_none {reason : Reason} {ok : Bool} (h : ok = true) :
    failUnless reason ok = none := if_pos h

theorem failUnless_eq_some {reason : Reason} {ok : Bool} (h : ¬ ok = true) :
    failUnless reason ok = some ⟨reason, 0⟩ := if_neg h

/-! ### Windows (R143) -/

theorem ofCode_eq_some_off (code : BitVec 4) : Role.ofCode code = some .off ↔ code.toNat = 0 := by
  unfold Role.ofCode
  split <;> simp_all

theorem ofCode_eq_some_input (code : BitVec 4) : Role.ofCode code = some .input ↔ code.toNat = 1 := by
  unfold Role.ofCode
  split <;> simp_all

theorem ofCode_eq_some_tap (code : BitVec 4) : Role.ofCode code = some .tap ↔ code.toNat = 2 := by
  unfold Role.ofCode
  split <;> simp_all

theorem ofCode_eq_some_report (code : BitVec 4) : Role.ofCode code = some .report ↔ code.toNat = 3 := by
  unfold Role.ofCode
  split <;> simp_all

theorem mem_powersOfTwo_iff (low count n : Nat) :
    n ∈ powersOfTwo low count ↔ ∃ k, low ≤ k ∧ k < low + count ∧ n = 2 ^ k := by
  simp only [powersOfTwo, List.mem_map, List.mem_range]
  constructor
  · rintro ⟨i, hi, rfl⟩
    exact ⟨low + i, by omega, by omega, rfl⟩
  · rintro ⟨k, hlow, hhigh, rfl⟩
    exact ⟨k - low, by omega, by rw [Nat.add_sub_cancel' hlow]⟩

theorem badSpan_iff (e : WindowEntry) : badWindow.badSpan e = false ↔
    (∃ k, 8 ≤ k ∧ k ≤ 18 ∧ e.size.toNat = 2 ^ k) ∧ e.base.toNat % e.size.toNat = 0 ∧
      e.base.toNat + e.size.toNat ≤ 1048576 := by
  have hpower : e.size.toNat ∈ powersOfTwo 8 11 ↔ ∃ k, 8 ≤ k ∧ k ≤ 18 ∧ e.size.toNat = 2 ^ k := by
    rw [mem_powersOfTwo_iff]
    exact exists_congr fun k => and_congr_right fun _ => and_congr_left fun _ => by omega
  rw [badWindow.badSpan, decide_eq_false_iff_not, not_or, not_or, not_not, not_not, hpower,
    Config.memoryWords, not_lt]

/-- The window check of an entry, by its role. -/
theorem badWindow_iff (e : WindowEntry) : badWindow e = false ↔ windowLegal e := by
  have hspan := badSpan_iff e
  have hformat : (decide (2 < e.format.toNat) || badWindow.badSpan e) = false ↔
      e.format.toNat ≤ 2 ∧ badWindow.badSpan e = false := by
    rw [Bool.or_eq_false_iff, decide_eq_false_iff_not, not_lt]
  unfold badWindow windowLegal Role.ofCode
  have hcode := e.role.isLt
  generalize e.role.toNat = code at hcode
  match code with
  | 0 => simp
  | 1 => simp only [hformat, hspan]; simp
  | 2 => simp only [hspan]; simp
  | 3 => simp only [hspan]; simp
  | 4 => simp only [hspan]; simp
  | 5 => simp
  | n + 6 => simp

/-! ### Roles (R143) -/

/-- The entries of a setup come in the order of their numbers. -/
theorem numberedWindows_sorted (u : Setup) :
    (numberedWindows u).Pairwise fun x y => x.2 < y.2 := by
  have hnumbers : ((numberedWindows u).map Prod.snd).Pairwise (· < ·) := by
    rw [numberedWindows, List.zipIdx_map_snd]
    exact List.pairwise_lt_range' 1
  exact List.pairwise_map.mp hnumbers

theorem mem_windowsOf_iff (u : Setup) (r : Role) (x : WindowEntry × Nat) : x ∈ windowsOf u r ↔
    ∃ n : Fin 7, Role.ofCode u.windows[n].role = some r ∧ x = (u.windows[n], 1 + n.val) := by
  rw [windowsOf, List.mem_filter, numberedWindows, mem_zipIdx_iff, decide_eq_true_eq]
  constructor
  · rintro ⟨⟨n, rfl⟩, hn⟩
    exact ⟨n, hn, rfl⟩
  · rintro ⟨n, hn, rfl⟩
    exact ⟨⟨n, rfl⟩, hn⟩

/-- A role is named once at most where any two entries of it are one. -/
theorem windowsOf_length_le_one_iff (u : Setup) (r : Role) : (windowsOf u r).length ≤ 1 ↔
    ∀ n m : Fin 7, Role.ofCode u.windows[n].role = some r → Role.ofCode u.windows[m].role = some r →
      m = n := by
  constructor
  · intro hle n m hn hm
    have hn' := (mem_windowsOf_iff u r _).mpr ⟨n, hn, rfl⟩
    have hm' := (mem_windowsOf_iff u r _).mpr ⟨m, hm, rfl⟩
    match hlist : windowsOf u r with
    | [] => simp [hlist] at hn'
    | [x] =>
      rw [hlist, List.mem_singleton] at hn' hm'
      have hnumber := congrArg Prod.snd (hm'.trans hn'.symm)
      simp only [Nat.add_left_cancel_iff] at hnumber
      exact Fin.ext hnumber
    | _ :: _ :: _ => simp [hlist] at hle
  · intro hone
    have hsorted : (windowsOf u r).Pairwise fun x y => x.2 < y.2 := (numberedWindows_sorted u).filter _
    match hlist : windowsOf u r with
    | [] => exact Nat.zero_le _
    | [_] => exact Nat.le_refl _
    | x :: y :: rest =>
      have hx := (mem_windowsOf_iff u r x).mp (by simp [hlist])
      have hy := (mem_windowsOf_iff u r y).mp (by simp [hlist])
      obtain ⟨n, hn, rfl⟩ := hx
      obtain ⟨m, hm, rfl⟩ := hy
      rw [hlist] at hsorted
      have hlt := List.rel_of_pairwise_cons hsorted (List.mem_cons_self ..)
      have hsame := hone n m hn hm
      simp [hsame] at hlt

/-- The INPUT entry's size, where it is the only one. -/
theorem setupInputSize_eq {u : Setup} {n : Fin 7} (hn : u.windows[n].role.toNat = 1)
    (hone : ∀ m : Fin 7, u.windows[m].role.toNat = 1 → m = n) :
    setupInputSize u = u.windows[n].size.toNat := by
  have hfound := find_zipIdx_eq_some (k := 1) u.windows
    (p := fun e => decide (Role.ofCode e.role = some .input)) n
    (by rw [decide_eq_true_eq, ofCode_eq_some_input]; exact hn) fun j hj => by
      rw [decide_eq_false_iff_not, ofCode_eq_some_input]
      exact fun h => absurd (hone j h) (ne_of_lt hj)
  rw [setupInputSize, windowsOf, List.head?_filter, numberedWindows, hfound]
  rfl

/-- The counts of the roles are legal exactly as R143 has them. -/
theorem badRoleCount_iff (u : Setup) : badRoleCount u = false ↔ rolesLegal u := by
  have hcount : badRoleCount u = false ↔ (windowsOf u .input).length = 1 ∧
      4096 ≤ setupInputSize u ∧ setupInputSize u ≤ 65536 ∧ (windowsOf u .tap).length ≤ 1 ∧
      (windowsOf u .report).length ≤ 1 := by
    rw [badRoleCount, decide_eq_false_iff_not]
    omega
  have hother (r : Role) (code : Nat) (hr : ∀ c : BitVec 4, Role.ofCode c = some r ↔ c.toNat = code) :
      (windowsOf u r).length ≤ 1 ↔ ∀ n m : Fin 7, u.windows[n].role.toNat = code →
        u.windows[m].role.toNat = code → m = n := by
    rw [windowsOf_length_le_one_iff]
    simp only [hr]
  have htap := hother .tap 2 ofCode_eq_some_tap
  have hreport := hother .report 3 ofCode_eq_some_report
  have hinput := hother .input 1 ofCode_eq_some_input
  rw [hcount]
  constructor
  · rintro ⟨hlength, hlow, hhigh, htaps, hreports⟩
    obtain ⟨x, hx⟩ := List.exists_mem_of_length_pos (by omega : 0 < (windowsOf u .input).length)
    obtain ⟨n, hn, rfl⟩ := (mem_windowsOf_iff u .input x).mp hx
    rw [ofCode_eq_some_input] at hn
    have hone : ∀ m : Fin 7, u.windows[m].role.toNat = 1 → m = n :=
      fun m hm => hinput.mp (by omega) n m hn hm
    rw [setupInputSize_eq hn hone] at hlow hhigh
    refine ⟨⟨n, hn, hlow, hhigh, hone⟩, fun n m hn hm => ?_⟩
    rcases hn with hn | hn
    · exact htap.mp htaps n m hn (by rw [hm]; exact hn)
    · exact hreport.mp hreports n m hn (by rw [hm]; exact hn)
  · rintro ⟨⟨n, hn, hlow, hhigh, hone⟩, hothers⟩
    have hsame {n m : Fin 7} {code : Nat} (hn : u.windows[n].role.toNat = code)
        (hm : u.windows[m].role.toNat = code) : u.windows[m].role = u.windows[n].role :=
      BitVec.eq_of_toNat_eq (hm.trans hn.symm)
    rw [setupInputSize_eq hn hone]
    refine ⟨?_, hlow, hhigh, htap.mpr fun n m hn hm => hothers n m (Or.inl hn) (hsame hn hm),
      hreport.mpr fun n m hn hm => hothers n m (Or.inr hn) (hsame hn hm)⟩
    have hle := hinput.mpr fun a b ha hb => (hone b hb).trans (hone a ha).symm
    have hpos : 0 < (windowsOf u .input).length := List.length_pos_of_mem
      ((mem_windowsOf_iff u .input _).mpr ⟨n, (ofCode_eq_some_input _).mpr hn, rfl⟩)
    omega

/-! ### Overlaps (R143) -/

theorem sharesAddress_iff (a b : WindowEntry) : sharesAddress a b = true ↔
    a.base.toNat < b.base.toNat + b.size.toNat ∧ b.base.toNat < a.base.toNat + a.size.toNat := by
  rw [sharesAddress, decide_eq_true_eq]

/-- Of a list in the order of its numbers, the first pair that shares an address gives its higher number. -/
theorem firstOverlap_eq_some {es : List (WindowEntry × Nat)} (hsorted : es.Pairwise fun x y => x.2 < y.2)
    {x y : WindowEntry × Nat} (hx : x ∈ es) (hy : y ∈ es) (hlt : x.2 < y.2)
    (hshares : sharesAddress x.1 y.1 = true)
    (hfirst : ∀ a ∈ es, ∀ b ∈ es, a.2 < b.2 → sharesAddress a.1 b.1 = true →
      x.2 < a.2 ∨ (x.2 = a.2 ∧ y.2 ≤ b.2)) : firstOverlap es = some y.2 := by
  induction es with
  | nil => exact absurd hx List.not_mem_nil
  | cons e rest ih =>
    obtain ⟨hhead, hrest⟩ := List.pairwise_cons.mp hsorted
    have hyrest : y ∈ rest := by
      rcases List.mem_cons.mp hy with rfl | hy
      · rcases List.mem_cons.mp hx with rfl | hx
        · exact absurd hlt (Nat.lt_irrefl _)
        · exact absurd (hhead x hx) (Nat.lt_asymm hlt)
      · exact hy
    unfold firstOverlap
    rcases List.mem_cons.mp hx with rfl | hxrest
    · cases hfound : rest.find? (fun z => sharesAddress x.1 z.1) with
      | none => exact absurd hshares (List.find?_eq_none.mp hfound y hyrest)
      | some z =>
        obtain ⟨hz, before, after, hsplit, hbefore⟩ := List.find?_eq_some_iff_append.mp hfound
        have hzrest : z ∈ rest := by simp [hsplit]
        have hle : y.2 ≤ z.2 := by
          have := hfirst x hx z (List.mem_cons_of_mem _ hzrest) (hhead z hzrest) hz
          omega
        have hge : z.2 ≤ y.2 := by
          rw [hsplit, List.pairwise_append] at hrest
          rw [hsplit, List.mem_append, List.mem_cons] at hyrest
          rcases hyrest with hy | rfl | hy
          · simpa [hshares] using hbefore y hy
          · exact Nat.le_refl _
          · exact Nat.le_of_lt (List.rel_of_pairwise_cons hrest.2.1 hy)
        exact congrArg some (Nat.le_antisymm hge hle)
    · have hnone : rest.find? (fun z => sharesAddress e.1 z.1) = none := by
        refine List.find?_eq_none.mpr fun z hz hshare => ?_
        have hbefore := hhead x hxrest
        have := hfirst e (List.mem_cons_self ..) z (List.mem_cons_of_mem _ hz) (hhead z hz) hshare
        omega
      rw [hnone]
      exact ih hrest hxrest hyrest fun a ha b hb =>
        hfirst a (List.mem_cons_of_mem _ ha) b (List.mem_cons_of_mem _ hb)

theorem firstOverlap_eq_none {es : List (WindowEntry × Nat)} (hsorted : es.Pairwise fun x y => x.2 < y.2)
    (hapart : ∀ a ∈ es, ∀ b ∈ es, a.2 < b.2 → ¬ sharesAddress a.1 b.1 = true) :
    firstOverlap es = none := by
  induction es with
  | nil => rfl
  | cons e rest ih =>
    obtain ⟨hhead, hrest⟩ := List.pairwise_cons.mp hsorted
    have hnone : rest.find? (fun z => sharesAddress e.1 z.1) = none :=
      List.find?_eq_none.mpr fun z hz =>
        hapart e (List.mem_cons_self ..) z (List.mem_cons_of_mem _ hz) (hhead z hz)
    unfold firstOverlap
    rw [hnone]
    exact ih hrest fun a ha b hb => hapart a (List.mem_cons_of_mem _ ha) b (List.mem_cons_of_mem _ hb)

/-- Entry number `n` is one the overlap check compares: entry 0, or an INPUT, TAP or REPORT entry. -/
def comparedEntry (entry0 : WindowEntry) (u : Setup) (n : Nat) : Prop :=
  n = 0 ∨ (n ≤ 7 ∧ 1 ≤ (entryOf entry0 u n).role.toNat ∧ (entryOf entry0 u n).role.toNat ≤ 3)

theorem entriesOverlap_iff (entry0 : WindowEntry) (u : Setup) (i j : Nat) : entriesOverlap entry0 u i j ↔
    i < j ∧ comparedEntry entry0 u i ∧ comparedEntry entry0 u j ∧
      sharesAddress (entryOf entry0 u i) (entryOf entry0 u j) = true := by
  rw [sharesAddress_iff]
  rfl

theorem entryOf_succ (entry0 : WindowEntry) (u : Setup) (n : Fin 7) :
    entryOf entry0 u (1 + n.val) = u.windows[n] := by
  have hn := n.isLt
  simp [entryOf]

/-- The entries the check compares, with their numbers. -/
theorem mem_overlapCandidates_iff (entry0 : WindowEntry) (u : Setup) (x : WindowEntry × Nat) :
    x ∈ overlapCandidates entry0 u ↔
      comparedEntry entry0 u x.2 ∧ x.1 = entryOf entry0 u x.2 := by
  have hrole (c : BitVec 4) : (Role.ofCode c = some .input ∨ Role.ofCode c = some .tap ∨
      Role.ofCode c = some .report) ↔ 1 ≤ c.toNat ∧ c.toNat ≤ 3 := by
    rw [ofCode_eq_some_input, ofCode_eq_some_tap, ofCode_eq_some_report]
    omega
  rw [overlapCandidates, List.mem_cons, List.mem_filter, numberedWindows, mem_zipIdx_iff,
    decide_eq_true_eq, hrole]
  obtain ⟨e, k⟩ := x
  constructor
  · rintro (h | ⟨⟨n, h⟩, hlow, hhigh⟩)
    · simp only [Prod.mk.injEq] at h
      obtain ⟨rfl, rfl⟩ := h
      exact ⟨Or.inl rfl, rfl⟩
    · simp only [Prod.mk.injEq] at h
      obtain ⟨rfl, rfl⟩ := h
      have hn := n.isLt
      refine ⟨Or.inr ⟨by omega, ?_⟩, ?_⟩ <;> dsimp only <;> rw [entryOf_succ]
      exact ⟨hlow, hhigh⟩
  · dsimp only
    rintro ⟨rfl | ⟨hle, hlow, hhigh⟩, rfl⟩
    · exact Or.inl rfl
    · rcases Nat.eq_zero_or_pos k with rfl | hpos
      · exact Or.inl rfl
      · have hk : entryOf entry0 u k = u.windows[(⟨k - 1, by omega⟩ : Fin 7)] := by
          rw [← entryOf_succ entry0 u ⟨k - 1, by omega⟩]
          congr 1
          dsimp only
          omega
        exact Or.inr ⟨⟨⟨k - 1, by omega⟩, by rw [hk]; simp only [Prod.mk.injEq, true_and]; omega⟩,
          hlow, hhigh⟩

theorem overlapCandidates_sorted (entry0 : WindowEntry) (u : Setup) :
    (overlapCandidates entry0 u).Pairwise fun x y => x.2 < y.2 := by
  refine List.pairwise_cons.mpr ⟨fun x hx => ?_, (numberedWindows_sorted u).filter _⟩
  obtain ⟨n, rfl⟩ := (mem_zipIdx_iff u.windows x).mp (List.mem_of_mem_filter hx)
  dsimp only
  omega

/-! ### Fields (R98, R157 to R159) -/

theorem trackerRangeOk_iff (g : General) : trackerRangeOk g = true ↔ trackerLegal g := by
  simp only [trackerRangeOk, trackerLegal, decide_eq_true_eq, and_assoc]

theorem lagRangeOk_iff (g : General) (size : Nat) : lagRangeOk g size = true ↔ lagLegal g size := by
  simp only [lagRangeOk, lagLegal, decide_eq_true_eq, and_assoc]

theorem voiceFieldOk_iff (v : VoiceSetup) : voiceFieldOk v = true ↔ voiceLegal v := by
  have hparameter : v.parameter.toInt ≤ 127 := by
    have := BitVec.toInt_lt (x := v.parameter)
    omega
  unfold voiceFieldOk voiceLegal Mode.ofCode
  generalize v.mode.toNat = code
  match code with
  | 0 => simp [Mode.inRange, and_assoc]
  | 1 => simp [Mode.inRange, and_assoc]
  | 2 => simp [Mode.inRange, and_assoc]
  | 3 => simp [Mode.inRange, and_assoc, hparameter]
  | n + 4 => simp

theorem linkRateOk_iff (g : General) : linkRateOk g = true ↔
    1 ≤ g.divisor.toNat ∧ (g.group.toNat ≤ 7 ∨ g.group.toNat = 255) := by
  rw [linkRateOk, decide_eq_true_eq]

theorem reportSizeOk_iff (g : General) (e : WindowEntry) : reportSizeOk g e = true ↔ reportLegal g e := by
  have hpower : e.records.toNat ∈ powersOfTwo 4 7 ↔
      ∃ k, 4 ≤ k ∧ k ≤ 10 ∧ e.records.toNat = 2 ^ k := by
    rw [mem_powersOfTwo_iff]
    exact exists_congr fun k => and_congr_right fun _ => and_congr_left fun _ => by omega
  simp only [reportSizeOk, reportLegal, decide_eq_true_eq, hpower]

/-! ### The checks in their order (R161) -/

theorem windowCheck_none {u : Setup} (h : ∀ n : Fin 7, windowLegal u.windows[n]) :
    failLowest .badWindow (((numberedWindows u).filter fun x => badWindow x.1).map (·.2)) = none := by
  rw [failLowest_filter, numberedWindows,
    find_zipIdx_eq_none u.windows fun i => (badWindow_iff _).mpr (h i)]
  rfl

theorem windowCheck_fails {u : Setup} {n : Fin 7} (hn : ¬ windowLegal u.windows[n])
    (hfirst : ∀ m < n, windowLegal u.windows[m]) :
    failLowest .badWindow (((numberedWindows u).filter fun x => badWindow x.1).map (·.2)) =
      some ⟨.badWindow, BitVec.ofNat 8 (n.val + 1)⟩ := by
  have hbad : badWindow u.windows[n] = true := by
    rw [← Bool.not_eq_false, badWindow_iff]
    exact hn
  rw [failLowest_filter, numberedWindows,
    find_zipIdx_eq_some u.windows n hbad fun j hj => (badWindow_iff _).mpr (hfirst j hj),
    Nat.add_comm 1]
  rfl

theorem overlapCheck_none {entry0 : WindowEntry} {u : Setup} (h : ∀ i j, ¬ entriesOverlap entry0 u i j) :
    firstOverlap (overlapCandidates entry0 u) = none := by
  refine firstOverlap_eq_none (overlapCandidates_sorted entry0 u) fun a ha b hb hlt hshares => ?_
  obtain ⟨ha, hea⟩ := (mem_overlapCandidates_iff entry0 u a).mp ha
  obtain ⟨hb, heb⟩ := (mem_overlapCandidates_iff entry0 u b).mp hb
  exact h a.2 b.2 ((entriesOverlap_iff entry0 u _ _).mpr ⟨hlt, ha, hb, hea ▸ heb ▸ hshares⟩)

theorem overlapCheck_fails {entry0 : WindowEntry} {u : Setup} {i j : Nat}
    (h : entriesOverlap entry0 u i j)
    (hfirst : ∀ k l, entriesOverlap entry0 u k l → i < k ∨ (i = k ∧ j ≤ l)) :
    firstOverlap (overlapCandidates entry0 u) = some j := by
  obtain ⟨hlt, hi, hj, hshares⟩ := (entriesOverlap_iff entry0 u i j).mp h
  refine firstOverlap_eq_some (x := (entryOf entry0 u i, i)) (y := (entryOf entry0 u j, j))
    (overlapCandidates_sorted entry0 u) ((mem_overlapCandidates_iff entry0 u _).mpr ⟨hi, rfl⟩)
    ((mem_overlapCandidates_iff entry0 u _).mpr ⟨hj, rfl⟩) hlt hshares fun a ha b hb hab hshare => ?_
  obtain ⟨ha, hea⟩ := (mem_overlapCandidates_iff entry0 u a).mp ha
  obtain ⟨hb, heb⟩ := (mem_overlapCandidates_iff entry0 u b).mp hb
  exact hfirst a.2 b.2 ((entriesOverlap_iff entry0 u _ _).mpr ⟨hab, ha, hb, hea ▸ heb ▸ hshare⟩)

theorem voiceCheck_none {u : Setup} (h : ∀ v : Fin 4, voiceLegal u.voices[v]) :
    failLowest .voiceField ((u.voices.toList.zipIdx.filter fun x => !voiceFieldOk x.1).map (·.2)) =
      none := by
  rw [failLowest_filter, find_zipIdx_eq_none u.voices (p := fun x => !voiceFieldOk x) fun i => by
    simpa [voiceFieldOk_iff] using h i]
  rfl

theorem voiceCheck_fails {u : Setup} {v : Fin 4} (hv : ¬ voiceLegal u.voices[v])
    (hfirst : ∀ w < v, voiceLegal u.voices[w]) :
    failLowest .voiceField ((u.voices.toList.zipIdx.filter fun x => !voiceFieldOk x.1).map (·.2)) =
      some ⟨.voiceField, BitVec.ofNat 8 v.val⟩ := by
  have hbad : (!voiceFieldOk u.voices[v]) = true := by
    rw [Bool.not_eq_true', ← Bool.not_eq_true, voiceFieldOk_iff]
    exact hv
  have hgood (w : Fin 4) (hw : w < v) : (!voiceFieldOk u.voices[w]) = false := by
    rw [Bool.not_eq_false', voiceFieldOk_iff]
    exact hfirst w hw
  rw [failLowest_filter, find_zipIdx_eq_some u.voices (p := fun x => !voiceFieldOk x) v hbad hgood, Nat.zero_add]
  rfl

/-- The first number of two lists, one after the other. -/
theorem failLowest_append (reason : Reason) (l r : List Nat) :
    failLowest reason (l ++ r) = (failLowest reason l).or (failLowest reason r) := by
  unfold failLowest
  cases l <;> simp

theorem scaleCheck_none {u : Setup} (h : ∀ n : Fin 8, u.scales[n].getLsbD 0 = true) :
    failLowest .table (badScales u) = none := by
  rw [badScales, failLowest_filter,
    find_zipIdx_eq_none u.scales (p := fun x => !x.getLsbD 0) fun i => by rw [h i]; rfl]
  rfl

theorem scaleCheck_fails {u : Setup} {n : Fin 8} (hn : u.scales[n].getLsbD 0 = false)
    (hfirst : ∀ m < n, u.scales[m].getLsbD 0 = true) :
    failLowest .table (badScales u) = some ⟨.table, BitVec.ofNat 8 n.val⟩ := by
  rw [badScales, failLowest_filter,
    find_zipIdx_eq_some u.scales (p := fun x => !x.getLsbD 0) n (by rw [hn]; rfl)
      fun j hj => by rw [hfirst j hj]; rfl, Nat.zero_add]
  rfl

theorem shapeCheck_none {u : Setup}
    (h : ∀ n : Fin 16, u.shapes[n] = 0 ∨ u.shapes[n].getLsbD 0 = true) :
    failLowest .table (badShapes u) = none := by
  rw [badShapes, failLowest_filter,
    find_zipIdx_eq_none u.shapes (p := fun x => decide (x ≠ 0) && !x.getLsbD 0) fun i => by
      rcases h i with h | h <;> simp only [h] <;> simp]
  rfl

theorem shapeCheck_fails {u : Setup} {n : Fin 16} (hn : u.shapes[n] ≠ 0)
    (hbit : u.shapes[n].getLsbD 0 = false)
    (hfirst : ∀ m < n, u.shapes[m] = 0 ∨ u.shapes[m].getLsbD 0 = true) :
    failLowest .table (badShapes u) = some ⟨.table, BitVec.ofNat 8 (16 + n.val)⟩ := by
  rw [badShapes, failLowest_filter,
    find_zipIdx_eq_some u.shapes (p := fun x => decide (x ≠ 0) && !x.getLsbD 0) n
      (by rw [hbit, decide_eq_true hn]; rfl) fun j hj => by
        rcases hfirst j hj with h | h <;> simp only [h] <;> simp, Nat.zero_add]
  rfl

/-- The REPORT entries that fail are the entries of that role whose N, size and trigger do not suit. -/
theorem reportCheck_eq (u : Setup) : failLowest .reportSize
    (((windowsOf u .report).filter fun x => !reportSizeOk u.general x.1).map (·.2)) =
    ((u.windows.toList.zipIdx 1).find? fun x =>
      !reportSizeOk u.general x.1 && decide (Role.ofCode x.1.role = some .report)).map
        fun x => ⟨.reportSize, BitVec.ofNat 8 x.2⟩ := by
  rw [windowsOf, List.filter_filter, failLowest_filter, numberedWindows]

theorem reportCheck_none {u : Setup}
    (h : ∀ n : Fin 7, u.windows[n].role.toNat = 3 → reportLegal u.general u.windows[n]) :
    failLowest .reportSize
      (((windowsOf u .report).filter fun x => !reportSizeOk u.general x.1).map (·.2)) = none := by
  have hgood (n : Fin 7) : (!reportSizeOk u.general u.windows[n] &&
      decide (Role.ofCode u.windows[n].role = some .report)) = false := by
    by_cases hrole : u.windows[n].role.toNat = 3
    · rw [(reportSizeOk_iff _ _).mpr (h n hrole)]
      rfl
    · rw [decide_eq_false (mt (ofCode_eq_some_report _).mp hrole), Bool.and_false]
  rw [reportCheck_eq, find_zipIdx_eq_none u.windows (p := fun e => !reportSizeOk u.general e &&
    decide (Role.ofCode e.role = some .report)) hgood]
  rfl

theorem reportCheck_fails {u : Setup} (hroles : rolesLegal u) {n : Fin 7}
    (hn : u.windows[n].role.toNat = 3) (hbad : ¬ reportLegal u.general u.windows[n]) :
    failLowest .reportSize
      (((windowsOf u .report).filter fun x => !reportSizeOk u.general x.1).map (·.2)) =
      some ⟨.reportSize, BitVec.ofNat 8 (n.val + 1)⟩ := by
  have hfails : (!reportSizeOk u.general u.windows[n] &&
      decide (Role.ofCode u.windows[n].role = some .report)) = true := by
    rw [decide_eq_true ((ofCode_eq_some_report _).mpr hn), Bool.and_true, Bool.not_eq_true',
      ← Bool.not_eq_true, reportSizeOk_iff]
    exact hbad
  have hothers (m : Fin 7) (hm : m < n) : (!reportSizeOk u.general u.windows[m] &&
      decide (Role.ofCode u.windows[m].role = some .report)) = false := by
    have hrole : ¬ u.windows[m].role.toNat = 3 := fun h =>
      absurd (hroles.2 n m (Or.inr hn) (BitVec.eq_of_toNat_eq (h.trans hn.symm))) (ne_of_lt hm)
    rw [decide_eq_false (mt (ofCode_eq_some_report _).mp hrole), Bool.and_false]
  rw [reportCheck_eq, find_zipIdx_eq_some u.windows (p := fun e => !reportSizeOk u.general e &&
    decide (Role.ofCode e.role = some .report)) n hfails hothers, Nat.add_comm 1]
  rfl

/-- Settles O18: a command without effects requests its status word, and of the nine checks the first failure
decides. -/
theorem commandWithoutEffects : Obligations.CommandWithoutEffects := by
  refine ⟨fun i d s hi hfree hplaced hroom hrest => ?_, fun entry0 u => ?_⟩
  · intro ends
    have hstatus := hrest.2
    refine ⟨fun hillegal => ?_, fun f hf hwhy => ?_⟩
    · refine exec_command_ends hi hfree hplaced hroom hrest fun t hsetup hmap => ?_
      exact takeCommand_illegal (by rw [hsetup]; exact hstatus)
        ((verdict_congr hsetup hmap _).trans (verdict_illegal hillegal))
    · refine exec_command_ends hi hfree hplaced hroom hrest fun t hsetup hmap => ?_
      exact takeCommand_rejected (by rw [hsetup]; exact hstatus)
        ((verdict_congr hsetup hmap _).trans (verdict_rejected hwhy hf))
  · intro g fails
    simp only [fails, validate, validationChecks, List.findSome?_cons, List.findSome?_nil, id]
    refine ⟨fun n hn hfirst => by rw [windowCheck_fails hn hfirst], fun hwindows => ?_⟩
    rw [windowCheck_none hwindows]
    refine ⟨fun hroles => ?_, fun input hroles hinput => ?_⟩
    · rw [failUnless_eq_some (by rwa [Bool.not_eq_true', badRoleCount_iff])]
      rfl
    have hsize : setupInputSize u = u.windows[input].size.toNat := by
      obtain ⟨⟨n, hn, _, _, hone⟩, _⟩ := hroles
      rw [hone input hinput]
      exact setupInputSize_eq hn hone
    rw [failUnless_eq_none (by rw [Bool.not_eq_true', badRoleCount_iff]; exact hroles)]
    refine ⟨fun i j hij hfirst => by rw [overlapCheck_fails hij hfirst]; rfl, fun hapart => ?_⟩
    rw [overlapCheck_none hapart, hsize]
    refine ⟨fun h => by rw [failUnless_eq_some (by rwa [trackerRangeOk_iff])]; rfl, fun htracker => ?_⟩
    rw [failUnless_eq_none ((trackerRangeOk_iff _).mpr htracker)]
    refine ⟨fun h => by rw [failUnless_eq_some (by rwa [lagRangeOk_iff])]; rfl, fun hlag => ?_⟩
    rw [failUnless_eq_none ((lagRangeOk_iff _ _).mpr hlag)]
    refine ⟨fun v hv hfirst => by rw [voiceCheck_fails hv hfirst]; rfl, fun hvoices => ?_⟩
    rw [voiceCheck_none hvoices]
    refine ⟨fun hroot => by rw [if_pos hroot]; rfl, fun hroot => ?_⟩
    rw [if_neg (Nat.not_lt.mpr hroot), List.nil_append, failLowest_append]
    refine ⟨fun n hn hfirst => by rw [scaleCheck_fails hn hfirst]; rfl, fun hscales => ?_⟩
    rw [scaleCheck_none hscales]
    refine ⟨fun n hn hbit hfirst => by rw [shapeCheck_fails hn hbit hfirst]; rfl, fun hshapes => ?_⟩
    rw [shapeCheck_none hshapes]
    refine ⟨fun h => by rw [failUnless_eq_some (mt (linkRateOk_iff _).mp h)]; rfl, fun hlink => ?_⟩
    rw [failUnless_eq_none ((linkRateOk_iff _).mpr hlink)]
    refine ⟨fun n hn hbad => by rw [reportCheck_fails hroles hn hbad]; rfl, fun hreports => ?_⟩
    rw [reportCheck_none hreports]
    rfl

end Sys2Proof.Machine
end

section
/-! PROOFS. What a plan of a voice comes to, and what a re-plan of all voices leaves unchanged. -/

namespace Sys2Proof.Machine

/-! ### All voices, all plans -/

/-- A change of all records changes each by its own function. -/
theorem voiceOf_mapVoices (s : State) (f : Fin 4 → VoiceRecord → VoiceRecord) (v : Fin 4) :
    voiceOf (mapVoices s f) v = f v (voiceOf s v) := by
  simp only [mapVoices, List.foldl_cons, List.foldl_nil]
  match v with
  | 0 => simp [voiceOf_setVoice_other]
  | 1 => simp [voiceOf_setVoice_other]
  | 2 => simp [voiceOf_setVoice_other]
  | 3 => simp [voiceOf_setVoice_other]

theorem mapVoices_frame (s : State) (f : Fin 4 → VoiceRecord → VoiceRecord) : mapVoices s f =
    { s with vce := { s.vce with voices := (mapVoices s f).vce.voices } } := rfl

theorem mapPlans_frame (s : State) (f : Fin 4 → VoicePlan → VoicePlan) : mapPlans s f =
    { s with pln := { s.pln with voices := (mapPlans s f).pln.voices } } := rfl

theorem setPlan_planOf (s : State) (v : Fin 4) : setPlan s v (planOf s v) = s := by
  simp [setPlan, planOf]

theorem planOf_congr {s t : State} (h : t.pln = s.pln) (v : Fin 4) : planOf t v = planOf s v := by
  unfold planOf
  rw [h]

theorem raiseEvent_pln (s : State) (e : Event) : (raiseEvent s e).pln = s.pln :=
  by
  rw [raiseEvent_rptOnly]

/-! ### What planning a voice changes -/

/-- Nothing changes but plans, in note and shift, and the event queue, by VOICE_RANGE. -/
structure Planning (s t : State) : Prop where
  frame : t = { s with
    pln := { s.pln with voices := t.pln.voices }
    rpt := { s.rpt with queue := t.rpt.queue, lost := t.rpt.lost } }
  plans : ∀ w, planOf t w =
    { planOf s w with note := (planOf t w).note, shift := (planOf t w).shift }
  events : ∃ raised, t.rpt.queue = s.rpt.queue ++ raised ∧ ∀ e ∈ raised, e.kind = .voiceRange

namespace Planning

theorem refl (s : State) : Planning s s :=
  ⟨rfl, fun _ => rfl, [], (List.append_nil _).symm, by simp⟩

theorem trans {s t u : State} (h₁ : Planning s t) (h₂ : Planning t u) : Planning s u := by
  obtain ⟨events₁, hqueue₁, hkind₁⟩ := h₁.events
  obtain ⟨events₂, hqueue₂, hkind₂⟩ := h₂.events
  refine ⟨?_, fun w => ?_, events₁ ++ events₂, ?_, ?_⟩
  · rw [h₂.frame, h₁.frame]
  · rw [h₂.plans w, h₁.plans w]
  · rw [hqueue₂, hqueue₁, List.append_assoc]
  · intro e he
    exact (List.mem_append.mp he).elim (hkind₁ e) (hkind₂ e)

theorem foldl {α : Type} {f : State → α → State} (h : ∀ s x, Planning s (f s x)) (l : List α)
    (s : State) : Planning s (l.foldl f s) := by
  induction l generalizing s with
  | nil => exact refl s
  | cons x rest ih => exact (h s x).trans (ih (f s x))

/-- A plan's note and shift set. -/
theorem set (s : State) (v : Fin 4) (note : Option Nat) (shift : Option Int) :
    Planning s (setPlan s v { planOf s v with note := note, shift := shift }) := by
  refine ⟨rfl, fun w => ?_, [], (List.append_nil _).symm, by simp⟩
  by_cases h : w = v
  · rw [h, planOf_setPlan_same]
  · rw [planOf_setPlan_other _ _ _ _ h]

theorem raise (s : State) {e : Event} (h : e.kind = .voiceRange) : Planning s (raiseEvent s e) := by
  refine ⟨?_, fun w => by rw [planOf_congr (raiseEvent_pln s e)], ?_⟩
  · rcases raiseEvent_cases s e with hr | ⟨_, hr⟩ | ⟨_, hr⟩ <;> rw [hr]
  · rcases raiseEvent_cases s e with hr | ⟨_, hr⟩ | ⟨_, hr⟩ <;> rw [hr]
    · exact ⟨[], (List.append_nil _).symm, by simp⟩
    · exact ⟨[e], rfl, by simpa using h⟩
    · exact ⟨[], (List.append_nil _).symm, by simp⟩

theorem trk {s t : State} (h : Planning s t) : t.trk = s.trk := by rw [h.frame]
theorem setup {s t : State} (h : Planning s t) : t.setup = s.setup := by rw [h.frame]
theorem vce {s t : State} (h : Planning s t) : t.vce = s.vce := by rw [h.frame]
theorem bus {s t : State} (h : Planning s t) : t.bus = s.bus := by rw [h.frame]
theorem enable {s t : State} (h : Planning s t) (v : Fin 4) :
    (planOf t v).enable = (planOf s v).enable := by rw [h.plans v]

theorem voiceSetup {s t : State} (h : Planning s t) (v : Fin 4) :
    voiceSetup t v = voiceSetup s v := by
  unfold Machine.voiceSetup
  rw [h.setup]

end Planning

/-- A plan given its shift keeps all but note and shift. -/
theorem formShift_plan (s : State) (v : Fin 4) (t : Nat) (p : VoicePlan) : (formShift s v t p).1 =
    { p with note := (formShift s v t p).1.note, shift := (formShift s v t p).1.shift } := by
  unfold formShift
  split
  · rfl
  · split <;> rfl

/-- Planning a voice sets its note and shift, and may raise its VOICE_RANGE (R46, R48, R55). -/
theorem planVoice_planning (s : State) (v : Fin 4) (others : List (Fin 4)) :
    Planning s (planVoice s v others) := by
  unfold planVoice
  dsimp only
  split
  · exact Planning.set s v none none
  · exact (Planning.set s v none none).trans (Planning.raise _ rfl)
  · rename_i t _
    have hplan := formShift_plan s v t.toNat (planOf s v)
    split
    · rename_i p' hform
      rw [hform] at hplan
      dsimp only at hplan
      rw [hplan]
      exact Planning.set s v _ _
    · rename_i p' x hform
      rw [hform] at hplan
      dsimp only at hplan
      rw [hplan]
      exact (Planning.set s v _ _).trans (Planning.raise _ rfl)

/-- Planning a voice keeps every other plan. -/
theorem planOf_planVoice_other (s : State) {v w : Fin 4} (others : List (Fin 4)) (h : w ≠ v) :
    planOf (planVoice s v others) w = planOf s w := by
  unfold planVoice
  dsimp only
  split
  · exact planOf_setPlan_other _ _ _ _ h
  · rw [planOf_congr (raiseEvent_pln _ _), planOf_setPlan_other _ _ _ _ h]
  · split
    · exact planOf_setPlan_other _ _ _ _ h
    · rw [planOf_congr (raiseEvent_pln _ _), planOf_setPlan_other _ _ _ _ h]

/-! ### The plan of a voice, case by case (R46, R48, R55) -/

theorem planVoice_none {s : State} {v : Fin 4} {others : List (Fin 4)}
    (h : planNote s v others = none) : planVoice s v others = setPlan s v (planOf s v).lost := by
  simp only [planVoice, h]

theorem planVoice_failed {s : State} {v : Fin 4} {others : List (Fin 4)} {u : Int}
    (h : planNote s v others = some (.failed u)) :
    planVoice s v others = raiseEvent (setPlan s v (planOf s v).lost) (rangeEvent s v u) := by
  simp only [planVoice, h]

theorem planVoice_unshifted {s : State} {v : Fin 4} {others : List (Fin 4)} {t : Int}
    (h : planNote s v others = some (.note t)) (hx : targetShift s v t.toNat (planOf s v) = none) :
    planVoice s v others = setPlan s v { planOf s v with note := some t.toNat, shift := none } := by
  simp only [planVoice, h, formShift, hx]

theorem planVoice_shifted {s : State} {v : Fin 4} {others : List (Fin 4)} {t x : Int}
    (h : planNote s v others = some (.note t)) (hx : targetShift s v t.toNat (planOf s v) = some x)
    (hlimit : beyondLimit x = false) : planVoice s v others =
      setPlan s v { planOf s v with note := some t.toNat, shift := some x } := by
  simp only [planVoice, h, formShift, hx, hlimit, Bool.false_eq_true, if_false]

theorem planVoice_beyond {s : State} {v : Fin 4} {others : List (Fin 4)} {t x : Int}
    (h : planNote s v others = some (.note t)) (hx : targetShift s v t.toNat (planOf s v) = some x)
    (hlimit : beyondLimit x = true) : planVoice s v others =
      raiseEvent (setPlan s v (planOf s v).lost) (shiftEvent s v t.toNat x) := by
  simp only [planVoice, h, formShift, hx, hlimit, if_true]

theorem beyondLimit_iff (x : Int) : beyondLimit x = true ↔ x < -2400 ∨ 2400 < x := by
  simp [beyondLimit]

theorem beyondLimit_false_iff (x : Int) : beyondLimit x = false ↔ -2400 ≤ x ∧ x ≤ 2400 := by
  rw [← Bool.not_eq_true, beyondLimit_iff]
  omega

theorem planNote_disabled {s : State} {v : Fin 4} (h : (planOf s v).enable = false)
    (others : List (Fin 4)) : planNote s v others = none := by
  simp [planNote, h]

/-! ### Notes and shifts in their ranges (R46, R55) -/

theorem rangeFold_bounds {low high t u : Int} (h : rangeFold low high t = some u) :
    low ≤ u ∧ u ≤ high := by
  unfold rangeFold at h
  dsimp only at h
  generalize (if high < t then high - (high - t) % 12 else t) = down at h
  obtain ⟨hhigh, hu⟩ := Option.ite_none_left_eq_some.mp h
  obtain rfl := Option.some.inj hu
  constructor
  · split <;> omega
  · exact Int.not_lt.mp hhigh

theorem foldResult_bounds {low high t u : Int} (h : foldResult low high t = .note u) :
    low ≤ u ∧ u ≤ high := by
  unfold foldResult at h
  split at h
  · rename_i w hw
    injection h with h
    rw [← h]
    exact rangeFold_bounds hw
  · exact absurd h (by simp)

/-- The unison check keeps a folded target in its range: each of its moves is folded again (R47). -/
theorem unisonCheck_bounds (s : State) (live : LiveMode) {low high : Int} (taken : List Int)
    (moves : Nat) {r : FoldResult} (hr : ∀ u, r = .note u → low ≤ u ∧ u ≤ high) {u : Int}
    (h : unisonCheck s live low high taken moves r = .note u) : low ≤ u ∧ u ≤ high := by
  induction moves generalizing r with
  | zero =>
    cases r with
    | failed x => exact absurd h (by simp [unisonCheck])
    | note t => exact hr u (by simpa [unisonCheck] using h)
  | succ n ih =>
    cases r with
    | failed x => exact absurd h (by simp [unisonCheck])
    | note t =>
      rw [unisonCheck] at h
      split at h
      · exact ih (fun _ => foldResult_bounds) h
      · exact hr u h

/-- A planned note lies in its voice's range (R46). -/
theorem planNote_bounds {s : State} {v : Fin 4} {others : List (Fin 4)} {t : Int}
    (h : planNote s v others = some (.note t)) :
    ((voiceSetup s v).lowNote.toNat : Int) ≤ t ∧ t ≤ ((voiceSetup s v).highNote.toNat : Int) := by
  unfold planNote at h
  dsimp only at h
  split at h
  · obtain ⟨start, _, hstart⟩ := Option.map_eq_some_iff.mp h
    split at hstart
    · exact unisonCheck_bounds _ _ _ _ (fun _ => foldResult_bounds) hstart
    · exact foldResult_bounds hstart
  · exact absurd h (by simp)

/-- A plan in bounds: its note in its voice's range, its shift within the limit, neither while
disabled. -/
def planBounded (u : VoiceSetup) (p : VoicePlan) : Prop :=
  (∀ n, p.note = some n → u.lowNote.toNat ≤ n ∧ n ≤ u.highNote.toNat) ∧
    (∀ x, p.shift = some x → -2400 ≤ x ∧ x ≤ 2400) ∧
    (p.enable = false → p.note = none ∧ p.shift = none)

theorem planBounded_lost (u : VoiceSetup) (p : VoicePlan) : planBounded u p.lost := by
  simp [planBounded, VoicePlan.lost]

/-- A voice just planned is in bounds. -/
theorem planVoice_bounded (s : State) (v : Fin 4) (others : List (Fin 4)) :
    planBounded (voiceSetup s v) (planOf (planVoice s v others) v) := by
  cases hnote : planNote s v others with
  | none =>
    rw [planVoice_none hnote, planOf_setPlan_same]
    exact planBounded_lost _ _
  | some r =>
    cases r with
    | failed u =>
      rw [planVoice_failed hnote, planOf_congr (raiseEvent_pln _ _), planOf_setPlan_same]
      exact planBounded_lost _ _
    | note t =>
      have hbounds := planNote_bounds hnote
      have henabled : (planOf s v).enable ≠ false := fun h =>
        absurd (hnote.symm.trans (planNote_disabled h others)) (by simp)
      have hin (n : Nat) (hn : some t.toNat = some n) :
          (voiceSetup s v).lowNote.toNat ≤ n ∧ n ≤ (voiceSetup s v).highNote.toNat := by
        injection hn with hn
        omega
      cases hshift : targetShift s v t.toNat (planOf s v) with
      | none =>
        rw [planVoice_unshifted hnote hshift, planOf_setPlan_same]
        exact ⟨hin, by simp, fun h => absurd h henabled⟩
      | some x =>
        cases hlimit : beyondLimit x with
        | false =>
          rw [planVoice_shifted hnote hshift hlimit, planOf_setPlan_same]
          refine ⟨hin, fun y hy => ?_, fun h => absurd h henabled⟩
          injection hy with hy
          rw [← hy]
          exact (beyondLimit_false_iff x).mp hlimit
        | true =>
          rw [planVoice_beyond hnote hshift hlimit, planOf_congr (raiseEvent_pln _ _),
            planOf_setPlan_same]
          exact planBounded_lost _ _

/-! ### A plan handed (R48) -/

theorem planOf_handClaim (s : State) (v w : Fin 4) (c : Claim) :
    planOf (handClaim s v c) w = planOf s w := planOf_congr (handClaim_pln s v c) w

theorem handVoice_pln (s : State) (v : Fin 4) :
    (handVoice s v).pln = (setPlan s v (planOf s v).afterHanding).pln := by
  unfold handVoice
  dsimp only
  split
  · exact handClaim_pln _ _ _
  · split
    · rfl
    · split <;> exact handClaim_pln _ _ _

theorem planOf_handVoice (s : State) (v w : Fin 4) : planOf (handVoice s v) w =
    if w = v then (planOf s v).afterHanding else planOf s w := by
  rw [planOf_congr (handVoice_pln s v)]
  split
  · rename_i h
    rw [h, planOf_setPlan_same]
  · rename_i h
    exact planOf_setPlan_other _ _ _ _ h

/-! ### A re-plan of all voices (R48) -/

/-- All voices planned in index order, each against those before it. -/
def planAll (s : State) : State :=
  [0, 1, 2, 3].foldl (fun s v => planVoice s v (lowerVoices v)) s

theorem replanAll_eq (s : State) : replanAll s = [0, 1, 2, 3].foldl handVoice (planAll s) := rfl

theorem planAll_planning (s : State) : Planning s (planAll s) :=
  Planning.foldl (fun u v => planVoice_planning u v _) _ s

/-- Handing all voices hands each its own plan. -/
theorem planOf_replanAll (s : State) (v : Fin 4) :
    planOf (replanAll s) v = (planOf (planAll s) v).afterHanding := by
  rw [replanAll_eq]
  simp only [List.foldl_cons, List.foldl_nil, planOf_handVoice]
  match v with
  | 0 => simp
  | 1 => simp
  | 2 => simp
  | 3 => simp

/-- A voice's plan is made once, on a state that planning has reached. -/
theorem planOf_planAll (s : State) (v : Fin 4) : ∃ u, Planning s u ∧
    planOf (planAll s) v = planOf (planVoice u v (lowerVoices v)) v := by
  have hstep (u : State) (w : Fin 4) : Planning u (planVoice u w (lowerVoices w)) :=
    planVoice_planning u w _
  unfold planAll
  simp only [List.foldl_cons, List.foldl_nil]
  match v with
  | 0 => exact ⟨_, Planning.refl s, by simp [planOf_planVoice_other]⟩
  | 1 => exact ⟨_, hstep s 0, by simp [planOf_planVoice_other]⟩
  | 2 => exact ⟨_, (hstep s 0).trans (hstep _ 1), by simp [planOf_planVoice_other]⟩
  | 3 => exact ⟨_, ((hstep s 0).trans (hstep _ 1)).trans (hstep _ 2), rfl⟩

/-- What a re-plan keeps of a plan: all but note, shift, what was handed and the newly enabled mark. -/
theorem planOf_replanAll_kept (s : State) (v : Fin 4) : planOf (replanAll s) v =
    { planOf s v with
      note := (planOf (replanAll s) v).note, shift := (planOf (replanAll s) v).shift,
      handed := (planOf (replanAll s) v).handed, newlyEnabled := false } := by
  rw [planOf_replanAll, (planAll_planning s).plans v]
  rfl

/-- After a re-plan every plan is in bounds. -/
theorem replanAll_bounded (s : State) (v : Fin 4) :
    planBounded (voiceSetup s v) (planOf (replanAll s) v) := by
  obtain ⟨u, hu, hplan⟩ := planOf_planAll s v
  rw [planOf_replanAll, hplan, ← hu.voiceSetup v]
  exact planVoice_bounded u v _

/-- A re-plan keeps the planner's key, chord, hold flag and what is deferred. -/
theorem replanAll_pln (s : State) :
    (replanAll s).pln = { s.pln with voices := (replanAll s).pln.voices } := by
  have hplan : (planAll s).pln = { s.pln with voices := (planAll s).pln.voices } :=
    congrArg State.pln (planAll_planning s).frame
  rw [replanAll_eq]
  simp only [List.foldl_cons, List.foldl_nil, handVoice_pln, setPlan]
  rw [hplan]

/-! ### Target shifts (R55) -/

theorem correctPitch_voiced {s : State} {v : Fin 4} {r : PitchRecord}
    (hcorrect : (voiceSetup s v).correct = true) (hlatest : s.trk.history.head? = some r)
    (hvoiced : r.voiced = true) : correctPitch s v = some (r.pitch.getD 0) := by
  simp [correctPitch, latestRecord, hcorrect, hlatest, hvoiced]

theorem correctPitch_none {s : State} {v : Fin 4} (h : ¬ ((voiceSetup s v).correct = true ∧
    ∃ r, s.trk.history.head? = some r ∧ r.voiced = true)) : correctPitch s v = none := by
  unfold correctPitch latestRecord
  split
  · rename_i hcorrect
    cases hlatest : s.trk.history.head? with
    | none => rfl
    | some r =>
      have hvoiced : r.voiced ≠ true := fun hr => h ⟨hcorrect, r, hlatest, hr⟩
      exact if_neg hvoiced
  · rfl

/-- The frozen target of a hold (R53). -/
theorem startTarget_frozen {s : State} {p : VoicePlan} {n : Nat} (hhold : s.pln.hold = true)
    (hnew : p.newlyEnabled = false) (hnote : p.note = some n) : startTarget s p = some (n : Int) := by
  simp [startTarget, hhold, hnew, hnote]

theorem startTarget_live {s : State} {p : VoicePlan}
    (h : s.pln.hold = false ∨ p.newlyEnabled = true ∨ p.note = none) :
    startTarget s p = modeTarget s p.live p.note := by
  unfold startTarget
  rcases h with h | h | h <;> simp [h]

theorem mem_notesOf_iff (s : State) (others : List (Fin 4)) (x : Int) : x ∈ notesOf s others ↔
    ∃ w ∈ others, (planOf s w).enable = true ∧ ∃ n : Nat, (planOf s w).note = some n ∧ x = n := by
  unfold notesOf
  rw [List.mem_filterMap]
  refine exists_congr fun w => and_congr_right fun _ => ?_
  cases (planOf s w).enable with
  | false => simp
  | true => simp [eq_comm]

theorem sungWord_eq (s : State) : sungWord s = (match s.trk.sung with
    | none => 255
    | some n => (BitVec.ofNat 8 n).setWidth 32) := by
  unfold sungWord
  cases s.trk.sung <;> rfl

/-- Settles O43. -/
theorem plansOfVoices : Obligations.PlansOfVoices := by
  refine ⟨fun s v others => ?_, fun s v t before => ?_, fun s v => ?_⟩
  · intro p u low high
    refine ⟨fun hhold hnew n hnote => startTarget_frozen hhold hnew hnote, startTarget_live,
      fun h => planNote_disabled h others, fun h => if_pos h, mem_notesOf_iff s others, ?_⟩
    intro planned
    refine ⟨planVoice_none, fun x hx => ?_, fun t ht => ⟨fun hshift => ?_, fun x hshift =>
      ⟨fun hlow hhigh => ?_, fun hbeyond => ?_⟩⟩⟩
    · rw [planVoice_failed hx, rangeEvent, sungWord_eq]
      rfl
    · exact planVoice_unshifted ht hshift
    · exact planVoice_shifted ht hshift ((beyondLimit_false_iff x).mpr ⟨hlow, hhigh⟩)
    · exact planVoice_beyond ht hshift ((beyondLimit_iff x).mpr hbeyond)
  · intro aimed
    refine ⟨fun r pitch hcorrect hlatest hvoiced hpitch => ?_, fun haimed => ⟨fun n hsung => ?_,
      fun hsung => ⟨fun hnote => ?_, fun hnote => ?_⟩⟩⟩
    · simp [targetShift, correctPitch_voiced hcorrect hlatest hvoiced, hpitch]
    · simp [targetShift, correctPitch_none haimed, hsung]
    · simp [targetShift, correctPitch_none haimed, hsung, hnote]
    · simp [targetShift, correctPitch_none haimed, hsung, hnote]
  · obtain ⟨hnote, hshift, hdisabled⟩ := replanAll_bounded s v
    refine ⟨hnote, hshift, fun h => hdisabled ?_⟩
    rw [planOf_replanAll_kept]
    exact h

end Sys2Proof.Machine
end

section
/-! PROOFS. The completion of START, STOP and RESTART. -/

namespace Sys2Proof.Machine

/-! ### A re-plan that hands nothing (R39, R58) -/

/-- The planner without a shift to hand: no sung note, no record, and no plan with a shift, a note handed
or a newly enabled mark. -/
def unshifted (s : State) : Prop :=
  s.trk.history = [] ∧ s.trk.sung = none ∧ ∀ v, (planOf s v).shift = none ∧
    (planOf s v).handed = none ∧ (planOf s v).newlyEnabled = false

theorem targetShift_unshifted {s : State} (h : unshifted s) (v : Fin 4) (t : Nat) :
    targetShift s v t (planOf s v) = none := by
  obtain ⟨hhistory, hsung, hplans⟩ := h
  have hpitch : correctPitch s v = none := correctPitch_none (by simp [hhistory])
  simp [targetShift, hpitch, hsung, (hplans v).1]

/-- A voice planned without a shift to form is left without one. -/
theorem planVoice_shift {s : State} (h : unshifted s) (v : Fin 4) (others : List (Fin 4)) :
    (planOf (planVoice s v others) v).shift = none := by
  cases hnote : planNote s v others with
  | none =>
    rw [planVoice_none hnote, planOf_setPlan_same]
    rfl
  | some r =>
    cases r with
    | failed u =>
      rw [planVoice_failed hnote, planOf_congr (raiseEvent_pln _ _), planOf_setPlan_same]
      rfl
    | note t => rw [planVoice_unshifted hnote (targetShift_unshifted h v _), planOf_setPlan_same]

theorem planVoice_keeps_unshifted {s : State} (h : unshifted s) (v : Fin 4) (others : List (Fin 4)) :
    unshifted (planVoice s v others) := by
  have hplanning := planVoice_planning s v others
  obtain ⟨hhistory, hsung, hplans⟩ := id h
  refine ⟨by rw [hplanning.trk, hhistory], by rw [hplanning.trk, hsung], fun w => ?_⟩
  refine ⟨?_, by rw [hplanning.plans w]; exact (hplans w).2⟩
  by_cases hw : w = v
  · rw [hw]
    exact planVoice_shift h v others
  · rw [planOf_planVoice_other s others hw]
    exact (hplans w).1

theorem planAll_unshifted {s : State} (h : unshifted s) : unshifted (planAll s) := by
  unfold planAll
  simp only [List.foldl_cons, List.foldl_nil]
  exact planVoice_keeps_unshifted (planVoice_keeps_unshifted (planVoice_keeps_unshifted
    (planVoice_keeps_unshifted h 0 _) 1 _) 2 _) 3 _

theorem target_of_shift_none {p : VoicePlan} (h : p.shift = none) : p.target = none := by
  unfold VoicePlan.target
  rw [h]
  cases p.note <;> rfl

/-- A voice without a shift, handed nothing before and not newly enabled, is handed nothing. -/
theorem handVoice_unshifted {s : State} (h : unshifted s) (v : Fin 4) : handVoice s v = s := by
  obtain ⟨hshift, hhanded, hnew⟩ := h.2.2 v
  have htarget := target_of_shift_none hshift
  have hafter : (planOf s v).afterHanding = planOf s v := by
    unfold VoicePlan.afterHanding
    rw [htarget]
    exact congrArg₂ (fun handed newlyEnabled => { planOf s v with handed, newlyEnabled })
      hhanded.symm hnew.symm
  simp [handVoice, hafter, setPlan_planOf, hnew, htarget, hhanded]

/-- Without a shift to hand, a re-plan hands no claim. -/
theorem replanAll_unshifted {s : State} (h : unshifted s) : replanAll s = planAll s := by
  have hplanned := planAll_unshifted h
  rw [replanAll_eq]
  simp only [List.foldl_cons, List.foldl_nil, handVoice_unshifted hplanned]

/-! ### The ends of a completion (R163, R164) -/

/-- COMMAND_COMPLETION of a command that can complete. -/
theorem exec_commandCompletion {s : State} {c : Command} (hc : s.setup.command = some c)
    (hcan : canComplete s c = true) :
    exec .commandCompletion s = .next (grant (completeCommand (beginStep s) c)) := by
  have hbegun : canComplete (beginStep s) c = true := hcan
  show execCommandCompletion s = _
  simp only [execCommandCompletion, beginStep_setup, hc, hbegun, if_true]

/-- The flag clears and the status word DONE is requested. -/
theorem afterEffects_done (t : State) (c : Command) : afterEffects t c false = { t with
    setup := { t.setup with command := none, status := some ⟨c.sequence, c.code, .done, .none, 0⟩ }
    bus := { t.bus with requests := t.bus.requests ++
      [⟨.status, t.map.entry0.base + 1, doneWord c.sequence t.setup.engine⟩] } } := rfl

theorem ringWords_eq {t : State} {e : WindowEntry} (he : reportEntry t = some e) : ringWords t =
    [⟨.ringReset 0, e.base, 0⟩, ⟨.ringReset 1, e.base + 1, 0⟩,
      ⟨.ringReset 2, e.base + 2, 0#21 ++ BitVec.ofNat 11 e.records.toNat⟩] := by
  have hbase : e.base + BitVec.ofNat 20 0 = e.base := BitVec.add_zero _
  simp only [ringWords, reportAddr, ringSize, he, Option.getD_some, Option.map_some, hbase]
  rfl

/-- The flag stays set and the ring-reset words are requested. -/
theorem afterEffects_ring {t : State} {e : WindowEntry} (he : reportEntry t = some e) (c : Command) :
    afterEffects t c true = { t with
      setup := { t.setup with command := some { c with completed := true } }
      bus := { t.bus with requests := t.bus.requests ++
        [⟨.ringReset 0, e.base, 0⟩, ⟨.ringReset 1, e.base + 1, 0⟩,
          ⟨.ringReset 2, e.base + 2, 0#21 ++ BitVec.ofNat 11 e.records.toNat⟩] } } := by
  rw [afterEffects, if_pos rfl, ringWords_eq he]
  rfl

/-- The end of a completion leaves the blocks to its effects. -/
theorem afterEffects_blocks (t : State) (c : Command) (b : Bool) :
    (grant (afterEffects t c b)).rpt = t.rpt ∧ (grant (afterEffects t c b)).vce = t.vce ∧
      (grant (afterEffects t c b)).pln = t.pln := by
  obtain ⟨_, _, _, _, _, _, _, hpln, hvce, _, _, hrpt⟩ := (grant_busOnly (afterEffects t c b)).fields
  rw [hrpt, hvce, hpln]
  unfold afterEffects
  split <;> exact ⟨rfl, rfl, rfl⟩

theorem startReceiver_eq (t : State) : startReceiver t = { t with
    crx := (if t.crx.state = .inBreak then
        { t.crx with divisor := t.setup.active.general.divisor }
      else { t.crx with
        state := .asleep, divisor := t.setup.active.general.divisor, buffer := [],
        timer := false }) } := by
  unfold startReceiver
  dsimp only
  split <;> rfl

/-- The ring is out of effect until its words are written (R176). -/
theorem attention_unwritten {s : State} (h : s.rpt.ringWritten = false) : attention s = false := by
  refine attention_without_ring ?_
  simp [ringInEffect, h]

/-! ### The planner and the voices at their beginning (R58, R78) -/

theorem startPlanner_frame (s : State) : startPlanner s = { s with
    pln := ⟨⟨s.setup.active.general.keyRoot.toNat, s.setup.active.general.keyScale.toNat⟩, none, false,
      none, none, (startPlanner s).pln.voices⟩ } := rfl

theorem startVoices_frame (s : State) (clearFlags : Bool) : startVoices s clearFlags =
    { s with vce := { s.vce with voices := (startVoices s clearFlags).vce.voices } } := rfl

theorem planOf_startPlanner (s : State) (v : Fin 4) :
    planOf (startPlanner s) v = startPlan (voiceSetup s v) := planOf_mapPlans _ _ v

theorem voiceOf_startVoices (s : State) (clearFlags : Bool) (v : Fin 4) :
    voiceOf (startVoices s clearFlags) v =
      startRecord (voiceSetup s v).startEnabled clearFlags (voiceOf s v) := voiceOf_mapVoices _ _ v

/-- Planned as START and RESTART begin, nothing is handed. -/
theorem unshifted_startPlanner {s : State} (hhistory : s.trk.history = [])
    (hsung : s.trk.sung = none) : unshifted (startPlanner s) := by
  refine ⟨hhistory, hsung, fun v => ?_⟩
  rw [planOf_startPlanner]
  exact ⟨rfl, rfl, rfl⟩

/-- The re-plan of START and RESTART keeps all but plans and events, and hands no claim. -/
theorem planning_startPlanner {s : State} (hhistory : s.trk.history = []) (hsung : s.trk.sung = none) :
    Planning (startPlanner s) (replanAll (startPlanner s)) := by
  rw [replanAll_unshifted (unshifted_startPlanner hhistory hsung)]
  exact planAll_planning _

/-! ### START (R167) -/

/-- What START sets before the voices and the planner. -/
def startFields (s : State) : State := emptyLists (clearTrackerFlags (clearTracker (startCapture
  (clearHops (resetRing (emptyEvents (setEngine (copySetup s) .running)))))))

/-- What START sets before its re-plan. -/
def startBlocks (s : State) : State := startPlanner (clearMixFlag (startVoices (startFields s) true))

theorem startFields_eq (s : State) : startFields s = { s with
    setup := { s.setup with active := s.setup.shadow, engine := .running }
    map := { s.map with entries := s.setup.shadow.windows }
    cap := ⟨none, 0, 0, 0⟩
    trk := { s.trk with
      buffer := [], history := [], sung := none, outside := 0, unvoiced := 0,
      generation := s.trk.generation + 1, newRecord := false, skipped := false }
    csc := ⟨[], []⟩
    rpt := { s.rpt with
      queue := [], lost := false, producer := 0, consumer := 0, unconsumed := [],
      hopCounter := 0, ringWritten := false } } := by
  simp only [startFields, emptyLists, clearTrackerFlags, clearTracker, startCapture, clearHops,
    resetRing, emptyEvents, setEngine, copySetup, Tracker.cleared, CaptureUnit.start]

/-- The machine as START sets it before its re-plan. -/
theorem startBlocks_frame (s : State) : startBlocks s = { s with
    setup := { s.setup with active := s.setup.shadow, engine := .running }
    map := { s.map with entries := s.setup.shadow.windows }
    cap := ⟨none, 0, 0, 0⟩
    trk := { s.trk with
      buffer := [], history := [], sung := none, outside := 0, unvoiced := 0,
      generation := s.trk.generation + 1, newRecord := false, skipped := false }
    csc := ⟨[], []⟩
    vce := ⟨(startBlocks s).vce.voices, false⟩
    pln := ⟨⟨s.setup.shadow.general.keyRoot.toNat, s.setup.shadow.general.keyScale.toNat⟩, none, false,
      none, none, (startBlocks s).pln.voices⟩
    rpt := { s.rpt with
      queue := [], lost := false, producer := 0, consumer := 0, unconsumed := [],
      hopCounter := 0, ringWritten := false } } := by
  have hvoices := startVoices_frame (startFields s) true
  have hplanner := startPlanner_frame (clearMixFlag (startVoices (startFields s) true))
  unfold startBlocks
  generalize startPlanner (clearMixFlag (startVoices (startFields s) true)) = planned at hplanner ⊢
  generalize startVoices (startFields s) true = voiced at hvoices hplanner
  rw [startFields_eq] at hvoices
  rw [hplanner, hvoices]
  rfl

theorem startBlocks_setup (s : State) : (startBlocks s).setup =
    { s.setup with active := s.setup.shadow, engine := .running } := by rw [startBlocks_frame]

theorem startBlocks_crx (s : State) : (startBlocks s).crx = s.crx := by rw [startBlocks_frame]

theorem voiceOf_startBlocks (s : State) (v : Fin 4) : voiceOf (startBlocks s) v =
    startRecord s.setup.shadow.voices[v].startEnabled true (voiceOf s v) :=
  calc voiceOf (startBlocks s) v
    _ = voiceOf (startVoices (startFields s) true) v := rfl
    _ = startRecord (voiceSetup (startFields s) v).startEnabled true (voiceOf (startFields s) v) :=
      voiceOf_startVoices _ true v
    _ = startRecord s.setup.shadow.voices[v].startEnabled true (voiceOf s v) := by
      rw [startFields_eq]; rfl

theorem planOf_startBlocks (s : State) (v : Fin 4) :
    planOf (startBlocks s) v = startPlan s.setup.shadow.voices[v] := by
  have hsetup : voiceSetup (clearMixFlag (startVoices (startFields s) true)) v =
      s.setup.shadow.voices[v] := by
    show (startFields s).setup.active.voices[v] = _
    rw [startFields_eq]
  exact (planOf_startPlanner _ v).trans (congrArg startPlan hsetup)

theorem planning_startBlocks (s : State) : Planning (startBlocks s) (replanAll (startBlocks s)) :=
  planning_startPlanner (s := clearMixFlag (startVoices (startFields s) true))
    (by rw [startVoices_frame, startFields_eq]; rfl) (by rw [startVoices_frame, startFields_eq]; rfl)

/-- The effects of START (R167). -/
theorem startEffects_planned (s : State) : startEffects s = { replanAll (startBlocks s) with
    crx := (if s.crx.state = .inBreak then
        { s.crx with divisor := s.setup.shadow.general.divisor }
      else { s.crx with
        state := .asleep, divisor := s.setup.shadow.general.divisor, buffer := [],
        timer := false }) } := by
  have hplanned := replanAll_planOnly (startBlocks s)
  have hcrx : (replanAll (startBlocks s)).crx = s.crx := by rw [hplanned.crx, startBlocks_crx]
  have hactive : (replanAll (startBlocks s)).setup.active = s.setup.shadow := by
    rw [hplanned.setup, startBlocks_setup]
  have heffects : startEffects s = startReceiver (replanAll (startBlocks s)) := rfl
  rw [heffects, startReceiver_eq, hcrx, hactive]

/-- The completion of START: its effects, then the ring-reset words or the end (R163, R167). -/
theorem completeCommand_start {s : State} {c : Command} (hcode : c.code.toNat = 1) :
    completeCommand s c =
      afterEffects (startEffects s) c (reportEntry (startBlocks s)).isSome := by
  have hentry : reportEntry (startBlocks s) = findRole s.setup.shadow.windows .report := by
    rw [startBlocks_frame]
    rfl
  simp only [completeCommand, commandEffects, hcode, hentry]

/-- Settles O21. -/
theorem startCompletes : Obligations.StartCompletes := by
  intro s c hc hcan hcode u live
  have hplanning := planning_startBlocks (beginStep s)
  have hframe := startBlocks_frame (beginStep s)
  have hvoices := voiceOf_startBlocks (beginStep s)
  have hplans := planOf_startBlocks (beginStep s)
  have hrun := exec_commandCompletion hc hcan
  have heffects := startEffects_planned (beginStep s)
  rw [completeCommand_start hcode] at hrun
  generalize startEffects (beginStep s) = t at heffects hrun
  generalize startBlocks (beginStep s) = begun at hplanning hframe hvoices hplans heffects hrun
  have hsetup : t.setup = { s.setup with active := u, engine := .running } := by
    simp only [heffects, hplanning.setup]
    rw [hframe]
    rfl
  have hbus : t.bus = s.bus := by
    simp only [heffects, hplanning.bus]
    rw [hframe]
    rfl
  have hmap : t.map = begun.map := by
    simp only [heffects, (replanAll_planOnly begun).map]
  have hentry0 : t.map.entry0 = s.map.entry0 := by
    rw [hmap, hframe]
    rfl
  have hvce : t.vce = begun.vce := by simp only [heffects, hplanning.vce]
  have hpln : t.pln = (replanAll begun).pln := by rw [heffects]
  have hunwritten : t.rpt.ringWritten = false := by
    have hrpt : (replanAll begun).rpt.ringWritten = begun.rpt.ringWritten := by rw [hplanning.frame]
    rw [heffects]
    dsimp only
    rw [hrpt, hframe]
  obtain ⟨hreport, hengine, hplan⟩ := afterEffects_blocks t c (reportEntry begun).isSome
  refine ⟨begun, _, hrun, hframe, hvoices, hplans, ⟨fun hnone => ?_, fun e he => ?_⟩,
    attention_unwritten ((congrArg ReportUnit.ringWritten hreport).trans hunwritten),
    hengine.trans hvce, fun v => ?_⟩
  · rw [hnone, Option.isSome_none, afterEffects_done, hsetup, hbus, hentry0, heffects]
    generalize replanAll begun = planned
    rfl
  · have hentry : reportEntry t = some e := by
      unfold reportEntry
      rw [hmap]
      exact he
    rw [he, Option.isSome_some, afterEffects_ring hentry, hsetup, hbus, heffects]
    generalize replanAll begun = planned
    rfl
  · rw [planOf_congr hplan v, planOf_congr hpln v, hplanning.plans v, hplans v]
    exact ⟨rfl, rfl, rfl⟩

/-! ### STOP (R168) -/

/-- What STOP does to the blocks in RUNNING. -/
def stopBlocks (s : State) : State := stopPlanner (clearTracker (emptyLists (stopVoices s)))

theorem stopBlocks_setEngine (s : State) (e : Engine) : stopBlocks (setEngine (beginStep s) e) =
    { stopBlocks s with pd := none, setup := { s.setup with engine := e } } := rfl

/-- The machine as STOP leaves its blocks. -/
theorem stopBlocks_frame (s : State) : stopBlocks s = { s with
    csc := ⟨[], []⟩
    trk := { s.trk with
      buffer := [], history := [], sung := none, outside := 0, unvoiced := 0,
      generation := s.trk.generation + 1 }
    vce := { s.vce with voices := (stopBlocks s).vce.voices }
    pln := { s.pln with voices := (stopBlocks s).pln.voices } } := by
  have hvoices := mapVoices_frame s fun _ r => startRecord false false r
  have hplans := mapPlans_frame (clearTracker (emptyLists (stopVoices s))) fun _ p =>
    { p with enable := false, newlyEnabled := false, note := none, shift := none, handed := none }
  unfold stopBlocks stopPlanner
  generalize mapPlans (clearTracker (emptyLists (stopVoices s))) _ = planned at hplans ⊢
  unfold stopVoices at hplans
  generalize mapVoices s _ = voiced at hvoices hplans
  rw [hplans, hvoices]
  rfl

theorem voiceOf_stopBlocks (s : State) (v : Fin 4) :
    voiceOf (stopBlocks s) v = startRecord false false (voiceOf s v) := by
  have hvce : (stopBlocks s).vce = (stopVoices s).vce := by
    unfold stopBlocks stopPlanner
    rw [mapPlans_frame]
    rfl
  unfold voiceOf
  rw [hvce]
  exact voiceOf_mapVoices s _ v

theorem planOf_stopBlocks (s : State) (v : Fin 4) : planOf (stopBlocks s) v = { planOf s v with
    enable := false, newlyEnabled := false, note := none, shift := none, handed := none } := by
  have hpln : (clearTracker (emptyLists (stopVoices s))).pln = s.pln := by
    unfold stopVoices
    rw [mapVoices_frame]
    rfl
  unfold stopBlocks stopPlanner
  rw [planOf_mapPlans, planOf_congr hpln v]

/-- Settles O22. -/
theorem stopCompletes : Obligations.StopCompletes := by
  intro s c hc hcan hcode ended
  have hrun := exec_commandCompletion hc hcan
  have hcomplete : completeCommand (beginStep s) c = afterEffects (stopEffects (beginStep s)) c false := by
    simp only [completeCommand, commandEffects, hcode]
  rw [hcomplete, afterEffects_done] at hrun
  refine ⟨fun hengine => ?_, fun hengine => ?_⟩
  · have heffects : stopEffects (beginStep s) =
        { stopBlocks s with pd := none, setup := { s.setup with engine := .halted } } := by
      rw [← stopBlocks_setEngine]
      simp only [stopEffects, beginStep_setup, hengine]
      rfl
    refine ⟨stopBlocks s, ?_, stopBlocks_frame s, voiceOf_stopBlocks s, planOf_stopBlocks s⟩
    rw [hrun, heffects]
    rfl
  · have heffects : stopEffects (beginStep s) = beginStep s := by
      simp only [stopEffects, beginStep_setup, hengine]
    rw [hrun, heffects]
    simp only [ended, ← hengine]
    rfl

/-! ### RESTART (R169) -/

/-- What RESTART sets before the voices and the planner. -/
def restartFields (s : State) : State := emptyLists (clearTracker (startCapture s))

/-- What RESTART sets before its re-plan. -/
def restartBlocks (s : State) : State := startPlanner (startVoices (restartFields s) false)

/-- The machine as RESTART sets it before its re-plan. -/
theorem restartBlocks_frame (s : State) : restartBlocks s = { s with
    cap := ⟨none, 0, 0, 0⟩
    trk := { s.trk with
      buffer := [], history := [], sung := none, outside := 0, unvoiced := 0,
      generation := s.trk.generation + 1 }
    csc := ⟨[], []⟩
    vce := { s.vce with voices := (restartBlocks s).vce.voices }
    pln := ⟨⟨s.setup.active.general.keyRoot.toNat, s.setup.active.general.keyScale.toNat⟩, none, false,
      none, none, (restartBlocks s).pln.voices⟩ } := by
  have hvoices := startVoices_frame (restartFields s) false
  have hplanner := startPlanner_frame (startVoices (restartFields s) false)
  unfold restartBlocks
  generalize startPlanner (startVoices (restartFields s) false) = planned at hplanner ⊢
  generalize startVoices (restartFields s) false = voiced at hvoices hplanner
  rw [hplanner, hvoices]
  rfl

theorem voiceOf_restartBlocks (s : State) (v : Fin 4) : voiceOf (restartBlocks s) v =
    startRecord s.setup.active.voices[v].startEnabled false (voiceOf s v) :=
  voiceOf_startVoices (restartFields s) false v

theorem planOf_restartBlocks (s : State) (v : Fin 4) :
    planOf (restartBlocks s) v = startPlan s.setup.active.voices[v] :=
  planOf_startPlanner (startVoices (restartFields s) false) v

theorem planning_restartBlocks (s : State) :
    Planning (restartBlocks s) (replanAll (restartBlocks s)) :=
  planning_startPlanner (s := startVoices (restartFields s) false) rfl rfl

/-- The effects of RESTART (R169). -/
theorem restartEffects_planned (s : State) : restartEffects s = { replanAll (restartBlocks s) with
    crx := (if s.crx.state = .inBreak then
        { s.crx with divisor := s.setup.active.general.divisor }
      else { s.crx with
        state := .asleep, divisor := s.setup.active.general.divisor, buffer := [],
        timer := false }) } := by
  have hplanned := replanAll_planOnly (restartBlocks s)
  have hcrx : (replanAll (restartBlocks s)).crx = s.crx := by
    rw [hplanned.crx, restartBlocks_frame]
  have hactive : (replanAll (restartBlocks s)).setup.active = s.setup.active := by
    rw [hplanned.setup, restartBlocks_frame]
  have heffects : restartEffects s = startReceiver (replanAll (restartBlocks s)) := rfl
  rw [heffects, startReceiver_eq, hcrx, hactive]

/-- Settles O23. -/
theorem restartCompletes : Obligations.RestartCompletes := by
  intro s c hc hcan hcode u live
  have hplanning := planning_restartBlocks (beginStep s)
  have hframe := restartBlocks_frame (beginStep s)
  have hvoices := voiceOf_restartBlocks (beginStep s)
  have hplans := planOf_restartBlocks (beginStep s)
  have hrun := exec_commandCompletion hc hcan
  have heffects := restartEffects_planned (beginStep s)
  have hcomplete : completeCommand (beginStep s) c =
      afterEffects (restartEffects (beginStep s)) c false := by
    simp only [completeCommand, commandEffects, hcode]
  rw [hcomplete] at hrun
  generalize restartEffects (beginStep s) = t at heffects hrun
  generalize restartBlocks (beginStep s) = begun at hplanning hframe hvoices hplans heffects
  have hsetup : t.setup = s.setup := by
    simp only [heffects, hplanning.setup]
    rw [hframe]
    rfl
  have hbus : t.bus = s.bus := by
    simp only [heffects, hplanning.bus]
    rw [hframe]
    rfl
  have hentry0 : t.map.entry0 = s.map.entry0 := by
    simp only [heffects, (replanAll_planOnly begun).map]
    rw [hframe]
    rfl
  have hvce : t.vce = begun.vce := by simp only [heffects, hplanning.vce]
  have hpln : t.pln = (replanAll begun).pln := by rw [heffects]
  have hrpt : t.rpt = (replanAll begun).rpt := by rw [heffects]
  obtain ⟨hreport, hengine, hplan⟩ := afterEffects_blocks t c false
  refine ⟨begun, _, hrun, hframe, hvoices, hplans, ?_, hengine.trans hvce, fun v => ?_, ?_, ?_⟩
  · rw [afterEffects_done, hsetup, hbus, hentry0, heffects]
    generalize replanAll begun = planned
    rfl
  · rw [planOf_congr hplan v, planOf_congr hpln v, hplanning.plans v, hplans v]
    exact ⟨rfl, rfl, rfl⟩
  · rw [hreport, hrpt]
    exact (congrArg State.rpt hplanning.frame).trans (by rw [hframe]; rfl)
  · obtain ⟨raised, hqueue, hkind⟩ := hplanning.events
    refine ⟨raised, ?_, hkind⟩
    rw [hreport, hrpt, hqueue, hframe]
    rfl

end Sys2Proof.Machine
end

section
/-! PROOFS. The completion of APPLY. -/

namespace Sys2Proof.Machine

/-! ### Claims with no tap read in flight (R76, R163) -/

theorem handClaim_untapped {s : State} (h : tapInFlight s = false) (v : Fin 4) (c : Claim) :
    handClaim s v c = takeClaim s v c := by
  unfold handClaim
  split
  · rename_i r hr
    simp [tapInFlight, hr] at h
  · rfl

theorem handVoice_bus {s : State} (h : tapInFlight s = false) (v : Fin 4) :
    (handVoice s v).bus = s.bus := by
  have hset : tapInFlight (setPlan s v (planOf s v).afterHanding) = false := h
  unfold handVoice
  dsimp only
  split
  · rw [handClaim_untapped hset]
    rfl
  · split
    · rfl
    · split
      · rw [handClaim_untapped hset]
        rfl
      · rw [handClaim_untapped hset]
        rfl

theorem tapInFlight_congr {s t : State} (h : t.bus = s.bus) : tapInFlight t = tapInFlight s := by
  simp only [tapInFlight, h]

theorem foldl_handVoice_bus {s : State} (h : tapInFlight s = false) (l : List (Fin 4)) :
    (l.foldl handVoice s).bus = s.bus := by
  induction l generalizing s with
  | nil => rfl
  | cons v rest ih =>
    have hbus := handVoice_bus h v
    rw [List.foldl_cons, ih ((tapInFlight_congr hbus).trans h), hbus]

/-- With no tap read in flight a re-plan leaves the bus path alone. -/
theorem replanAll_bus {s : State} (h : tapInFlight s = false) : (replanAll s).bus = s.bus := by
  have hbus := (planAll_planning s).bus
  rw [replanAll_eq, foldl_handVoice_bus ((tapInFlight_congr hbus).trans h), hbus]

/-! ### APPLY by its parts (R170) -/

/-- The machine as a capture restart of APPLY leaves it, before its event. -/
def applyParked (s : State) : State :=
  parkVoices (clearTracker { s with cap := { s.cap with offset := none, c := 0, fill := 0 } })

/-- The setup copied, and in RUNNING capture restarted where the INPUT window changes. -/
def applyCaptured (s : State) : State :=
  if s.setup.engine = .running ∧ inputChanged s.map.entries s.setup.shadow.windows = true then
    applyCaptureRestart (copySetup s)
  else copySetup s

/-- Then the ring and the live modes. -/
def applyModed (s : State) : State :=
  applyModes (applyRing (applyCaptured s) (ringChange s.map.entries s.setup.shadow.windows))

/-- Then, in RUNNING, the re-plan. -/
def applyPlanned (s : State) : State :=
  if s.setup.engine = .running then replanAll (applyModed s) else applyModed s

/-- Then, in RUNNING, the fades where XF changes. -/
def applyFaded (s : State) : State :=
  if s.setup.engine = .running ∧ s.setup.active.general.xf ≠ s.setup.shadow.general.xf then
    applyFades (applyPlanned s)
  else applyPlanned s

theorem applyEffects_eq {s : State} (h : s.setup.engine ≠ .idle) : applyEffects s = applyFaded s := by
  cases hengine : s.setup.engine with
  | idle => exact absurd hengine h
  | halted => simp [applyEffects, applyFaded, applyPlanned, applyModed, applyCaptured, hengine]
  | running =>
    by_cases hxf : s.setup.active.general.xf = s.setup.shadow.general.xf <;>
      simp [applyEffects, applyFaded, applyPlanned, applyModed, applyCaptured, hengine, hxf]

/-- What APPLY changes: the active setup and the map, capture but the count, the tracker, the voices, the
plans, the Report Unit, and the bus path's claims. -/
def applyOnly (s t : State) : Prop :=
  t = { s with
    pd := t.pd
    setup := { s.setup with active := s.setup.shadow }
    map := { s.map with entries := s.setup.shadow.windows }
    cap := { t.cap with count := s.cap.count }
    trk := t.trk, vce := t.vce, rpt := t.rpt
    pln := { s.pln with voices := t.pln.voices }
    bus := { s.bus with cycle := t.bus.cycle } }

theorem applyParked_frame (s : State) : applyParked s = { s with
    cap := { s.cap with offset := none, c := 0, fill := 0 }
    trk := { s.trk with
      buffer := [], history := [], sung := none, outside := 0, unvoiced := 0,
      generation := s.trk.generation + 1 }
    vce := { s.vce with voices := (applyParked s).vce.voices } } := by
  have hvoices := mapVoices_frame
    (clearTracker { s with cap := { s.cap with offset := none, c := 0, fill := 0 } })
    fun _ r => parkRecord r
  unfold applyParked parkVoices
  generalize mapVoices _ _ = voiced at hvoices ⊢
  rw [hvoices]
  rfl

theorem voiceOf_applyParked (s : State) (v : Fin 4) :
    voiceOf (applyParked s) v = parkRecord (voiceOf s v) := by
  unfold applyParked parkVoices
  rw [voiceOf_mapVoices]
  rfl

theorem applyCaptureRestart_eq (s : State) : applyCaptureRestart s =
    raiseEvent (applyParked s) ⟨.captureRestart, 2, none, 0, 0, s.cap.count⟩ := by
  have hcount : (applyParked s).cap.count = s.cap.count := by rw [applyParked_frame]
  unfold applyCaptureRestart
  dsimp only [eventNow]
  rw [← hcount]
  rfl

theorem applyCaptured_only (s : State) : applyOnly s (applyCaptured s) ∧
    (applyCaptured s).bus = s.bus ∧ (applyCaptured s).pln = s.pln := by
  unfold applyCaptured
  split
  · rw [applyCaptureRestart_eq, raiseEvent_rptOnly, applyParked_frame]
    exact ⟨rfl, rfl, rfl⟩
  · exact ⟨rfl, rfl, rfl⟩

theorem applyRing_frame (s : State) (change : RingChange) :
    applyRing s change = { s with rpt := (applyRing s change).rpt } := by
  cases change <;> rfl

theorem applyModes_frame (s : State) : applyModes s =
    { s with pln := { s.pln with voices := (applyModes s).pln.voices } } := mapPlans_frame s _

theorem planOf_applyModes (s : State) (v : Fin 4) : planOf (applyModes s) v =
    { planOf s v with live := liveModeOf (voiceSetup s v), deferredMode := none } :=
  planOf_mapPlans s _ v

theorem applyFades_frame (s : State) : applyFades s =
    { s with vce := { s.vce with voices := (applyFades s).vce.voices } } := mapVoices_frame s _

theorem voiceOf_applyFades (s : State) (v : Fin 4) : voiceOf (applyFades s) v =
    fitFade s.setup.active.general.xf.toNat (voiceOf s v) := voiceOf_mapVoices s _ v

theorem applyModed_only (s : State) : applyOnly s (applyModed s) ∧ (applyModed s).bus = s.bus := by
  obtain ⟨honly, hbus, hpln⟩ := applyCaptured_only s
  have hring := applyRing_frame (applyCaptured s) (ringChange s.map.entries s.setup.shadow.windows)
  have hmodes := applyModes_frame
    (applyRing (applyCaptured s) (ringChange s.map.entries s.setup.shadow.windows))
  unfold applyModed
  generalize applyModes _ = moded at hmodes ⊢
  generalize applyRing (applyCaptured s) _ = ringed at hring hmodes
  generalize applyCaptured s = captured at honly hbus hpln hring
  unfold applyOnly at honly ⊢
  refine ⟨?_, ?_⟩
  · rw [hmodes, hring, honly]
  · rw [hmodes, hring, hbus]

theorem applyOnly_planOnly {s t u : State} (h₁ : applyOnly s t) (h₂ : planOnly t u)
    (hpln : u.pln = { t.pln with voices := u.pln.voices }) : applyOnly s u := by
  obtain ⟨_, _, _, _, ⟨_, _, _, _⟩, ⟨_, _⟩, ⟨_, _, _, _, _⟩, ⟨_, _, _, _⟩, _, ⟨_, _, _, _, _, _⟩,
    _, _, _, _⟩ := s
  obtain ⟨_, _, _, _, ⟨_, _, _, _⟩, ⟨_, _⟩, ⟨_, _, _, _, _⟩, ⟨_, _, _, _⟩, _, ⟨_, _, _, _, _, _⟩,
    _, _, _, _⟩ := t
  obtain ⟨_, _, _, _, ⟨_, _, _, _⟩, ⟨_, _⟩, ⟨_, _, _, _, _⟩, ⟨_, _, _, _⟩, _, ⟨_, _, _, _, _, _⟩,
    _, _, _, _⟩ := u
  simp only [applyOnly, planOnly, State.mk.injEq, BusPath.mk.injEq, WindowMap.mk.injEq,
    SetupUnit.mk.injEq, CaptureUnit.mk.injEq, Planner.mk.injEq, true_and, and_true] at h₁ h₂ hpln ⊢
  simp only [h₁, h₂, hpln, and_self]

theorem applyPlanned_only (s : State) : applyOnly s (applyPlanned s) := by
  obtain ⟨honly, _⟩ := applyModed_only s
  unfold applyPlanned
  split
  · exact applyOnly_planOnly honly (replanAll_planOnly _) (replanAll_pln _)
  · exact honly

theorem applyFaded_frame (s : State) : applyFaded s =
    { applyPlanned s with
      vce := { (applyPlanned s).vce with voices := (applyFaded s).vce.voices } } := by
  unfold applyFaded
  split
  · exact applyFades_frame _
  · rfl

theorem applyFaded_only (s : State) : applyOnly s (applyFaded s) := by
  have hfades : planOnly (applyPlanned s) (applyFaded s) ∧
      (applyFaded s).pln = (applyPlanned s).pln := by
    unfold applyFaded
    split
    · exact ⟨mapVoices_planOnly _ _, by rw [applyFades_frame]⟩
    · exact ⟨planOnly_refl _, rfl⟩
  obtain ⟨hplan, hpln⟩ := hfades
  refine applyOnly_planOnly (applyPlanned_only s) hplan ?_
  rw [hpln]

/-- With no tap read in flight an APPLY leaves the bus path to the words it requests. -/
theorem applyFaded_bus {s : State} (h : tapInFlight s = false) : (applyFaded s).bus = s.bus := by
  have hmoded := (applyModed_only s).2
  have hplanned : (applyPlanned s).bus = s.bus := by
    unfold applyPlanned
    split
    · rw [replanAll_bus ((tapInFlight_congr hmoded).trans h), hmoded]
    · exact hmoded
  rw [applyFaded_frame]
  exact hplanned

/-! ### Records and ring, case by case (R75, R77, R170) -/

/-- A record as a capture restart parks it (R75). -/
theorem parkRecord_eq (r : VoiceRecord) : parkRecord r =
    if r.state = .silent ∨ r.state = .parked then r
    else { r with
      fade := 0, p := none, xfade := none, splicePending := false,
      state := if r.state = .leaving ∧ r.enable = false then .silent else .parked } := by
  cases hstate : r.state with
  | silent | parked | entering | sounding => simp [parkRecord, dropPositions, hstate]
  | leaving => cases henable : r.enable <;> simp [parkRecord, dropPositions, hstate, henable]

/-- What an APPLY makes of the ring, by the REPORT windows before and after (R170, R173). -/
theorem applyRing_windows (t : State) (old new : Vector WindowEntry 7) :
    applyRing t (ringChange old new) =
      if (findRole old .report).map reportKey = (findRole new .report).map reportKey then t
      else { t with rpt := { t.rpt with
        producer := 0, consumer := 0, unconsumed := [], ringWritten := false,
        queue := if ((findRole new .report).map reportKey).isSome then t.rpt.queue else [],
        lost := if ((findRole new .report).map reportKey).isSome then t.rpt.lost else false } } := by
  unfold ringChange
  cases (findRole old .report).map reportKey with
  | none => cases (findRole new .report).map reportKey <;> rfl
  | some a =>
    cases (findRole new .report).map reportKey with
    | none => rfl
    | some b =>
      by_cases hab : a = b
      · simp [hab, applyRing]
      · simp [hab, applyRing, resetRing]

/-- The ring is written afresh where the REPORT window changes and is not removed (R170). -/
theorem ringChange_fresh_iff (old new : Vector WindowEntry 7) : ringChange old new = .fresh ↔
    (findRole old .report).map reportKey ≠ (findRole new .report).map reportKey ∧
      (findRole new .report).map reportKey ≠ none := by
  unfold ringChange
  cases (findRole old .report).map reportKey with
  | none => cases (findRole new .report).map reportKey <;> simp
  | some a =>
    cases (findRole new .report).map reportKey with
    | none => simp
    | some b => by_cases hab : a = b <;> simp [hab]

theorem attention_unentered {s : State} (h : reportEntry s = none) : attention s = false := by
  refine attention_without_ring ?_
  simp [ringInEffect, h]

/-- The end of a completion changes the Setup Unit and the bus path alone, and keeps setup and engine. -/
theorem afterEffects_frame (t : State) (c : Command) (b : Bool) : grant (afterEffects t c b) =
    { t with
      setup := { t.setup with
        command := (grant (afterEffects t c b)).setup.command
        status := (grant (afterEffects t c b)).setup.status }
      bus := (grant (afterEffects t c b)).bus } := by
  have hgrant := grant_busOnly (afterEffects t c b)
  have hpd := grant_pd (afterEffects t c b)
  generalize grant (afterEffects t c b) = u at hgrant hpd ⊢
  unfold busOnly at hgrant
  rw [hgrant, hpd]
  unfold afterEffects
  split <;> rfl

theorem tapInFlight_of_canComplete {s : State} {c : Command} (h : canComplete s c = true) :
    tapInFlight s = false := by
  simp only [canComplete, Bool.and_eq_true, Bool.not_eq_true'] at h
  obtain ⟨⟨⟨_, htap⟩, _⟩, _⟩ := h
  exact htap

/-- A fade brought to a new XF (R77). -/
theorem fitFade_eq (xf : Nat) (r : VoiceRecord) : fitFade xf r = (match r.state with
    | .silent => r
    | .parked => r
    | .sounding => { r with fade := xf }
    | .entering =>
      { r with fade := min r.fade xf, state := if xf ≤ r.fade then .sounding else .entering }
    | .leaving => { r with fade := min r.fade xf }) := by
  unfold fitFade
  cases r.state <;> rfl

theorem applyRing_pln (s : State) (change : RingChange) :
    (applyRing (applyCaptured s) change).pln = s.pln := by
  rw [applyRing_frame]
  exact (applyCaptured_only s).2.2

theorem applyRing_active (s : State) (change : RingChange) :
    (applyRing (applyCaptured s) change).setup.active = s.setup.shadow := by
  have honly := (applyCaptured_only s).1
  rw [applyRing_frame, honly]

theorem applyModed_frame (s : State) : applyModed s =
    { applyRing (applyCaptured s) (ringChange s.map.entries s.setup.shadow.windows) with
      pln := { s.pln with voices := (applyModed s).pln.voices } } := by
  have hframe := applyModes_frame
    (applyRing (applyCaptured s) (ringChange s.map.entries s.setup.shadow.windows))
  rw [applyRing_pln] at hframe
  exact hframe

theorem planOf_applyModed (s : State) (v : Fin 4) : planOf (applyModed s) v =
    { planOf s v with live := liveModeOf s.setup.shadow.voices[v], deferredMode := none } := by
  unfold applyModed
  rw [planOf_applyModes, planOf_congr (applyRing_pln _ _), voiceSetup, applyRing_active]

/-- The fades and the enables leave what the re-plan is made of. -/
theorem applyFaded_enable (s : State) (v : Fin 4) :
    (planOf (applyFaded s) v).enable = (planOf s v).enable := by
  have hpln : (applyFaded s).pln = (applyPlanned s).pln := by rw [applyFaded_frame]
  rw [planOf_congr hpln]
  unfold applyPlanned
  split
  · rw [planOf_replanAll_kept, planOf_applyModed]
  · rw [planOf_applyModed]

/-- Re-plan and fades keep the ring's mark. -/
theorem applyFaded_ringWritten (s : State) :
    (applyFaded s).rpt.ringWritten = (applyModed s).rpt.ringWritten := by
  have hplanned : (applyPlanned s).rpt.ringWritten = (applyModed s).rpt.ringWritten := by
    unfold applyPlanned
    split
    · rw [replanAll_planOnly (applyModed s)]
    · rfl
  rw [applyFaded_frame]
  exact hplanned

theorem voiceOf_applyFaded (s : State) (v : Fin 4) : voiceOf (applyFaded s) v =
    if s.setup.engine = .running ∧ s.setup.active.general.xf ≠ s.setup.shadow.general.xf then
      fitFade s.setup.shadow.general.xf.toNat (voiceOf (applyPlanned s) v)
    else voiceOf (applyPlanned s) v := by
  have hactive : (applyPlanned s).setup.active = s.setup.shadow := by rw [applyPlanned_only s]
  unfold applyFaded
  split
  · rw [voiceOf_applyFades, hactive]
  · rfl

/-- The completion of APPLY: its effects, then the ring-reset words or the end (R163, R170). -/
theorem completeCommand_apply {s : State} {c : Command} (hcode : c.code.toNat = 2)
    (hengine : s.setup.engine ≠ .idle) : completeCommand s c = afterEffects (applyFaded s) c
      (decide (ringChange s.map.entries s.setup.shadow.windows = .fresh)) := by
  simp only [completeCommand, commandEffects, hcode]
  rw [applyEffects_eq hengine]

/-- Settles O24. -/
theorem applyCompletes : Obligations.ApplyCompletes := by
  intro s c hc hcan hcode hengine u inputWindow reportWindow parkedOf fitted copied ringed
  have hrun : exec .commandCompletion s = .next (grant (afterEffects (applyFaded (beginStep s)) c
      (decide (ringChange s.map.entries u.windows = .fresh)))) := by
    rw [exec_commandCompletion hc hcan, completeCommand_apply (s := beginStep s) hcode hengine]
    rfl
  have hcaptured : applyCaptured (beginStep s) =
      if s.setup.engine = .running ∧ inputWindow s.map.entries ≠ inputWindow u.windows then
        raiseEvent (applyParked copied) ⟨.captureRestart, 2, none, 0, 0, s.cap.count⟩
      else copied := by
    unfold applyCaptured inputChanged
    simp only [decide_eq_true_eq, applyCaptureRestart_eq]
    rfl
  have hringed : applyRing (applyCaptured (beginStep s)) (ringChange s.map.entries u.windows) =
      ringed (applyCaptured (beginStep s)) := applyRing_windows _ _ _
  have hmoded := applyModed_frame (beginStep s)
  have hbus : (applyFaded (beginStep s)).bus = s.bus :=
    applyFaded_bus (s := beginStep s) (tapInFlight_of_canComplete hcan)
  have honly := applyFaded_only (beginStep s)
  have hsetup : (applyFaded (beginStep s)).setup = { s.setup with active := u } := by
    rw [honly]
    rfl
  have hmap : (applyFaded (beginStep s)).map = { s.map with entries := u.windows } := by
    rw [honly]
    rfl
  have hfades : ∀ v : Fin 4, voiceOf (applyFaded (beginStep s)) v =
      if s.setup.engine = .running ∧ s.setup.active.general.xf ≠ u.general.xf then
        fitted (voiceOf (applyPlanned (beginStep s)) v)
      else voiceOf (applyPlanned (beginStep s)) v := fun v => by
    rw [voiceOf_applyFaded, fitFade_eq]
    rfl
  have hend := afterEffects_frame (applyFaded (beginStep s)) c
    (decide (ringChange s.map.entries u.windows = .fresh))
  refine ⟨applyParked copied, applyCaptured (beginStep s), applyModed (beginStep s),
    applyFaded (beginStep s), _, hrun, applyParked_frame copied,
    fun v => (voiceOf_applyParked copied v).trans (parkRecord_eq _), hcaptured,
    hmoded.trans ?_, planOf_applyModed (beginStep s), ⟨applyFaded_frame _, hfades⟩,
    fun hkept => ?_, fun e hchanged he => ?_, fun hnone => ?_, ?_⟩
  · exact congrArg (fun r : State =>
      { r with pln := { s.pln with voices := (applyModed (beginStep s)).pln.voices } }) hringed
  · have hfresh : decide (ringChange s.map.entries u.windows = .fresh) = false := by
      rw [decide_eq_false_iff_not, ringChange_fresh_iff]
      exact fun h => hkept.elim h.1 h.2
    rw [hfresh, afterEffects_done, hsetup, hbus, hmap]
  · have hsome : reportWindow u.windows = some (e.base, e.size, e.records) :=
      congrArg (Option.map reportKey) he
    have hfresh : ringChange s.map.entries u.windows = .fresh :=
      (ringChange_fresh_iff _ _).mpr ⟨hchanged, by simp [he]⟩
    have hentry : reportEntry (applyFaded (beginStep s)) = some e := by
      unfold reportEntry
      rw [hmap]
      exact he
    have hunwritten : (applyFaded (beginStep s)).rpt.ringWritten = false := by
      rw [applyFaded_ringWritten, applyModed_frame]
      show (applyRing (applyCaptured (beginStep s))
        (ringChange s.map.entries u.windows)).rpt.ringWritten = false
      rw [hfresh]
      rfl
    refine ⟨?_, attention_unwritten ?_⟩
    · rw [decide_eq_true hfresh, afterEffects_ring hentry, hsetup, hbus]
    · rw [(afterEffects_blocks _ _ _).1, hunwritten]
  · refine attention_unentered ?_
    unfold reportEntry
    rw [afterEffects_frame, hmap]
    exact Option.map_eq_none_iff.mp hnone
  · have hplan := applyFaded_enable (beginStep s)
    have hpln := (afterEffects_blocks (applyFaded (beginStep s)) c
      (decide (ringChange s.map.entries u.windows = .fresh))).2.2
    generalize grant _ = t at hend hpln ⊢
    generalize applyFaded (beginStep s) = faded at *
    refine ⟨?_, ?_, ?_, ?_, ?_, ?_, fun v => (congrArg _ (planOf_congr hpln v)).trans (hplan v)⟩
    · rw [hend, hsetup]
    · rw [hend, honly]
      rfl
    · rw [hend, honly]
      rfl
    · rw [hend, honly]
      rfl
    · rw [hend, honly]
      rfl
    · rw [hpln, honly]
      rfl

end Sys2Proof.Machine
end

section
/-! PROOFS. The note decision, and what the completion of an analysis hands on. -/

namespace Sys2Proof.Machine

/-! ### The note decision (R27 to R29) -/

theorem noteDecision_voiced {r : PitchRecord} {p : Nat} (hvoiced : r.voiced = true)
    (hpitch : r.pitch = some p) (t : Tracker) (g : General) :
    t.noteDecision g r = t.decideVoiced g p := by
  simp [Tracker.noteDecision, hvoiced, hpitch]

theorem noteDecision_unvoiced {r : PitchRecord} (hvoiced : r.voiced = false) (t : Tracker)
    (g : General) : t.noteDecision g r = t.decideUnvoiced g := by
  simp [Tracker.noteDecision, hvoiced]

/-- Settles O39. -/
theorem noteDecision : Obligations.NoteDecision := by
  intro t g r
  refine ⟨fun p hvoiced hpitch hsung => ?_, fun p n hvoiced hpitch hsung => ?_, fun hvoiced => ?_⟩
  · rw [noteDecision_voiced hvoiced hpitch]
    simp only [Tracker.decideVoiced, hsung]
    rfl
  · rw [noteDecision_voiced hvoiced hpitch]
    unfold Tracker.decideVoiced
    rw [hsung]
    dsimp only
    refine ⟨fun hinside => if_pos hinside, fun houtside => ?_⟩
    rw [if_neg (by omega)]
    refine ⟨fun hrun => if_pos hrun, fun hrun hnote => ?_, fun hrun hnote => ?_⟩
    · rw [if_neg (by omega), if_neg (show ¬ nearestNote p = n from hnote)]
      rfl
    · rw [if_neg (by omega), if_pos (show nearestNote p = n from hnote)]
  · rw [noteDecision_unvoiced hvoiced]
    unfold Tracker.decideUnvoiced
    refine ⟨fun n hsung hhold => ?_, fun h => ?_⟩
    · rw [hsung]
      exact if_pos hhold
    · cases hsung : t.sung with
      | none => rfl
      | some n =>
        have hhold : min 16 (t.unvoiced + 1) < g.unvoicedHold.toNat :=
          h.resolve_left (by simp [hsung])
        exact if_neg (by omega)

/-- The decision reads and sets the sung note and its two counts alone. -/
theorem noteDecision_congr {t u : Tracker} (hsung : u.sung = t.sung) (houtside : u.outside = t.outside)
    (hunvoiced : u.unvoiced = t.unvoiced) (g : General) (r : PitchRecord) : u.noteDecision g r =
      ({ u with
        sung := (t.noteDecision g r).1.sung
        outside := (t.noteDecision g r).1.outside
        unvoiced := (t.noteDecision g r).1.unvoiced }, (t.noteDecision g r).2) := by
  obtain ⟨_, _, _, _, _, _, _, _, _⟩ := t
  obtain ⟨_, _, _, _, sung, outside, unvoiced, _, _⟩ := u
  dsimp only at hsung houtside hunvoiced
  subst hsung houtside hunvoiced
  cases hvoiced : r.voiced with
  | false =>
    simp only [Tracker.noteDecision, hvoiced, Tracker.decideUnvoiced]
    cases sung with
    | none => rfl
    | some n =>
      simp only [Bool.false_eq_true, if_false]
      split <;> rfl
  | true =>
    simp only [Tracker.noteDecision, hvoiced, Tracker.decideVoiced]
    cases sung with
    | none => rfl
    | some n =>
      simp only [if_true]
      split
      · rfl
      · split
        · rfl
        · split <;> rfl

/-! ### What a decision hands on (R30 to R32) -/

theorem noteChangeEvents_onset (r : PitchRecord) (old : Option Nat) (new : Nat) :
    noteChangeEvents r (.onset old new) = [⟨.noteChange, 1, none, BitVec.ofNat 32 new,
      (match old with
        | none => 255
        | some n => (BitVec.ofNat 8 n).setWidth 32), r.stamp⟩] := by
  cases old <;> rfl

/-- A decision's event and hand-ons, before the shift updates (R30, R31 steps 1 to 4). -/
def handDecision (s : State) (r : PitchRecord) (o : NoteOutcome) : State :=
  handOutcome (raiseEvents s (noteChangeEvents r o)) o

theorem handDecision_kept (s : State) (r : PitchRecord) : handDecision s r .kept = s := rfl

theorem handDecision_quiet (s : State) (r : PitchRecord) (old : Nat) : handDecision s r (.quiet old) =
    replanAll (raiseEvent s ⟨.noteChange, 2, none, 255, BitVec.ofNat 32 old, r.stamp⟩) := rfl

theorem handDecision_onset (s : State) (r : PitchRecord) (old : Option Nat) (new : Nat) :
    handDecision s r (.onset old new) = replanAll (executeOnsetList s.csc.onsetList
      (raiseEvent s ⟨.noteChange, 1, none, BitVec.ofNat 32 new,
        (match old with
          | none => 255
          | some n => (BitVec.ofNat 8 n).setWidth 32), r.stamp⟩)) := by
  have hlists (e : Event) : (raiseEvent s e).csc = s.csc :=
    (raiseEvent_eventsOnly s e).planOnly.csc
  unfold handDecision
  rw [noteChangeEvents_onset]
  show replanAll (executeOnsetList (raiseEvent s _).csc.onsetList (raiseEvent s _)) = _
  rw [hlists]

/-- A decision's hand-ons stay in the scheduler's frame, and keep the lists but at an onset (R132). -/
theorem handDecision_spec (s : State) (r : PitchRecord) (o : NoteOutcome) :
    listsAndPlan s (handDecision s r o) ∧ (handDecision s r o).csc.atList = s.csc.atList ∧
      ((∀ old new, o ≠ .onset old new) → (handDecision s r o).csc.onsetList = s.csc.onsetList) ∧
      ∀ old new, o = .onset old new → (handDecision s r o).csc.onsetList = [] := by
  cases o with
  | kept => exact ⟨(planOnly_refl s).lists, rfl, fun _ => rfl, by simp⟩
  | quiet old =>
    have hplan := planOnly_trans (raiseEvent_eventsOnly s
      ⟨.noteChange, 2, none, 255, BitVec.ofNat 32 old, r.stamp⟩).planOnly (replanAll_planOnly _)
    rw [handDecision_quiet]
    exact ⟨hplan.lists, congrArg _ hplan.csc, fun _ => congrArg _ hplan.csc, by simp⟩
  | onset old new =>
    rw [handDecision_onset]
    generalize Event.mk .noteChange 1 none (BitVec.ofNat 32 new) _ r.stamp = e
    have hraised := (raiseEvent_eventsOnly s e).planOnly
    obtain ⟨hlists, hemptied⟩ := executeOnsetList_spec s.csc.onsetList (raiseEvent s e)
    have hplanned := replanAll_planOnly (executeOnsetList s.csc.onsetList (raiseEvent s e))
    have hcsc := hplanned.csc.trans hemptied
    refine ⟨listsAndPlan_trans (listsAndPlan_trans hraised.lists hlists) hplanned.lists, ?_, ?_, ?_⟩
    · rw [hcsc, hraised.csc]
    · exact fun h => absurd rfl (h old new)
    · intro _ _ _
      rw [hcsc]

/-! ### The shift update of a voice (R56) -/

theorem shiftUpdate_none {s : State} {v : Fin 4} (h : (planOf s v).note = none) :
    shiftUpdate s v = s := by
  unfold shiftUpdate
  dsimp only
  rw [h]

theorem shiftUpdate_unshifted {s : State} {v : Fin 4} {t : Nat} (h : (planOf s v).note = some t)
    (hx : targetShift s v t (planOf s v) = none) :
    shiftUpdate s v = setPlan s v { planOf s v with shift := none } := by
  have hform : formShift s v t (planOf s v) =
      ({ planOf s v with note := some t, shift := none }, none) := by
    simp only [formShift, hx]
  unfold shiftUpdate
  dsimp only
  rw [h]
  dsimp only
  rw [hform]
  cases (planOf s v).shift <;> rfl

theorem shiftUpdate_beyond {s : State} {v : Fin 4} {t : Nat} {x : Int}
    (h : (planOf s v).note = some t) (hx : targetShift s v t (planOf s v) = some x)
    (hlimit : beyondLimit x = true) : shiftUpdate s v = handClaim
      (raiseEvent (setPlan s v { planOf s v with
        note := none, shift := none, handed := none, newlyEnabled := false })
        ⟨.voiceRange, 2, some v, BitVec.ofInt 32 x, BitVec.ofNat 32 t, s.cap.count⟩) v .withdraw := by
  have hform : formShift s v t (planOf s v) = ((planOf s v).lost, some x) := by
    simp only [formShift, hx, hlimit, if_true]
  unfold shiftUpdate
  dsimp only
  rw [h]
  dsimp only
  rw [hform]
  rfl

/-- A shift within the limit is handed: to a voice that waited for one as its target, to any other as
its new shift. -/
theorem shiftUpdate_shifted {s : State} {v : Fin 4} {t : Nat} {x : Int}
    (h : (planOf s v).note = some t) (hx : targetShift s v t (planOf s v) = some x)
    (hlimit : beyondLimit x = false) : shiftUpdate s v = handClaim
      (setPlan s v { planOf s v with
        note := some t, shift := some x, handed := some t, newlyEnabled := false }) v
      (if (planOf s v).shift = none then .update ⟨t, x⟩ else .shift x) := by
  simp only [shiftUpdate, h, formShift, hx, hlimit, Bool.false_eq_true, if_false]
  cases (planOf s v).shift <;> rfl

/-! ### The completion (R18, R31) -/

theorem exec_analysisCompletion {s : State} {x : Analysis} (h : s.trk.inFlight = some x) :
    exec .analysisCompletion s = .next (completeAnalysis (beginStep s) x) := by
  show execAnalysisCompletion s = _
  unfold execAnalysisCompletion
  simp only [beginStep_trk, h]

/-- The tracker once a current analysis has completed: its record entered, the decision taken (R26). -/
def recordEntered (t : Tracker) (g : General) (r : PitchRecord) : Tracker :=
  { t with
    inFlight := none, newRecord := true, history := (r :: t.history).take 8,
    sung := (t.noteDecision g r).1.sung, outside := (t.noteDecision g r).1.outside,
    unvoiced := (t.noteDecision g r).1.unvoiced }

/-- A current analysis completes: the record entered, then what the decision hands on, then the shift
updates. -/
theorem completeAnalysis_current {s : State} {x : Analysis} (h : x.generation = s.trk.generation) :
    completeAnalysis s x = shiftUpdates (handDecision
      { s with trk := recordEntered s.trk s.setup.active.general (analyse x) } (analyse x)
      (s.trk.noteDecision s.setup.active.general (analyse x)).2) := by
  have hdecided := noteDecision_congr (t := s.trk) (u := (endAnalysis s).trk.enter (analyse x)) rfl rfl
    rfl s.setup.active.general (analyse x)
  unfold completeAnalysis
  rw [if_pos h]
  unfold enterRecord
  dsimp only
  rw [show (endAnalysis s).setup.active.general = s.setup.active.general from rfl, hdecided]
  rfl

/-- The end of an analysis stays in the scheduler's frame about the tracker it leaves. -/
theorem completeAnalysis_spec (s : State) (r : PitchRecord) (o : NoteOutcome) :
    listsAndPlan s (shiftUpdates (handDecision s r o)) ∧
      (shiftUpdates (handDecision s r o)).csc = (handDecision s r o).csc :=
  ⟨listsAndPlan_trans (handDecision_spec s r o).1 (shiftUpdates_planOnly _).lists,
    (shiftUpdates_planOnly _).csc⟩

theorem planOnly.kept {s t : State} (h : planOnly s t) : t.trk = s.trk ∧ t.cap = s.cap ∧
    t.setup = s.setup ∧ t.map = s.map ∧ t.mem = s.mem ∧ t.crx = s.crx ∧ t.bus.queue = s.bus.queue ∧
    t.bus.port = s.bus.port ∧ t.bus.requests = s.bus.requests :=
  ⟨h.trk, h.cap, h.setup, h.map, h.mem, h.crx, h.queue, h.port, h.requests⟩

theorem listsAndPlan.kept {s t : State} (h : listsAndPlan s t) : t.trk = s.trk ∧ t.cap = s.cap ∧
    t.setup = s.setup ∧ t.map = s.map ∧ t.mem = s.mem ∧ t.crx = s.crx ∧ t.bus.queue = s.bus.queue ∧
    t.bus.port = s.bus.port ∧ t.bus.requests = s.bus.requests := by
  have hkept := planOnly.kept h
  exact hkept

/-- Settles O38. -/
theorem analysisCompletes : Obligations.AnalysisCompletes := by
  refine ⟨fun s x hx => ?_, fun u => ⟨rfl, fun cue rest => rfl⟩, fun u => rfl, fun u v => ?_⟩
  · have hrun := exec_analysisCompletion hx
    refine ⟨fun hstale => ?_, fun hcurrent => ?_⟩
    · rw [hrun, completeAnalysis, if_neg (show x.generation ≠ (beginStep s).trk.generation from hstale)]
      rfl
    · intro record decided
      rw [completeAnalysis_current (s := beginStep s) hcurrent] at hrun
      generalize hbase : ({ beginStep s with
        trk := recordEntered s.trk s.setup.active.general record } : State) = base
      have hcsc : base.csc = s.csc := by rw [← hbase]; rfl
      obtain ⟨hframe, hlists⟩ := completeAnalysis_spec base record decided.2
      obtain ⟨htrk, hcap, hsetup, hmap, hmem, hcrx, hqueue, hport, hrequests⟩ := hframe.kept
      obtain ⟨_, hat, hkept, hemptied⟩ := handDecision_spec base record decided.2
      refine ⟨base, shiftUpdates (handDecision base record decided.2), ?_, hbase.symm,
        fun h => ?_, fun old new h => ⟨?_, ?_⟩, fun old h => ?_, fun h => ?_, htrk, ?_, ?_, ?_,
        ?_, ?_, ?_, ?_, ?_, ?_⟩
      · rw [hrun, ← hbase]
        rfl
      · rw [h, handDecision_kept]
      · have honset := handDecision_onset base record old new
        rw [hcsc] at honset
        rw [h]
        exact congrArg shiftUpdates honset
      · rw [hlists]
        exact hemptied old new h
      · rw [h, handDecision_quiet]
      · rw [hlists, hkept h, hcsc]
      · rw [hlists, hat, hcsc]
      · rw [hcap, ← hbase]
        rfl
      · rw [hsetup, ← hbase]
        rfl
      · rw [hmap, ← hbase]
        rfl
      · rw [hmem, ← hbase]
        rfl
      · rw [hcrx, ← hbase]
        rfl
      · rw [hqueue, ← hbase]
        rfl
      · rw [hport, ← hbase]
        rfl
      · rw [hrequests, ← hbase]
        rfl
  · refine ⟨shiftUpdate_none, fun t ht => ?_⟩
    intro given
    refine ⟨shiftUpdate_unshifted ht, fun x hx => ⟨fun hbeyond => ?_, fun hlow hhigh =>
      ⟨fun hwaited => ?_, fun hheld => ?_⟩⟩⟩
    · rw [shiftUpdate_beyond ht hx ((beyondLimit_iff x).mpr hbeyond)]
    · rw [shiftUpdate_shifted ht hx ((beyondLimit_false_iff x).mpr ⟨hlow, hhigh⟩), if_pos hwaited]
    · rw [shiftUpdate_shifted ht hx ((beyondLimit_false_iff x).mpr ⟨hlow, hhigh⟩), if_neg hheld]

end Sys2Proof.Machine
end

section
/-! PROOFS. A cue heard and accepted, and what each musical cue does at its owner. -/

namespace Sys2Proof.Machine

/-! ### A cue accepted (R119 to R127) -/

/-- The machine as a message heard to its end leaves it, before its cue is accepted. -/
def afterMessage (s : State) : State := { s with pd := none, crx := heard s }

/-- A message for this part, with the right CRC, goes to the body check. -/
theorem exec_heard {i : Instr} {dest kind : Byte} {due : Due} {payload : List Byte} {e : BitVec 16}
    {s : State} (hmessage : i.cueMessage? = some (dest, kind, due, payload, e))
    (hlisten : listening s dest) (hlow : 2 ≤ (bodyChars kind due payload).length)
    (hhigh : (bodyChars kind due payload).length ≤ 9) :
    exec i s = .next (completeMessage (afterMessage s) (messageChars kind due payload e)) := by
  rw [exec_cueMessage hmessage, takeMessage_heard (s := beginStep s) hlisten kind due payload e hlow
    hhigh]
  rfl

theorem fallAsleep_afterMessage (s : State) : fallAsleep (afterMessage s) = afterMessage s := rfl

theorem bodyChars_length (kind : Byte) (due : Due) (payload : List Byte) :
    (bodyChars kind due payload).length = 2 + stampSize due + payload.length :=
  (dueOf_bodyChars kind due payload).2.2.2

theorem payloadSize_le {kind : Byte} {n : Nat} (h : payloadSize kind = some n) :
    n ≤ 4 ∧ ((kind = 8 ∨ kind = 9) ∨ n ≤ 3) := by
  unfold payloadSize at h
  have hkind (k : Nat) (hk : k < 256) (h : kind.toNat = k) : kind = BitVec.ofNat 8 k := by
    apply BitVec.eq_of_toNat_eq
    rw [BitVec.toNat_ofNat, h, Nat.mod_eq_of_lt hk]
  split at h <;> simp at h <;> subst h <;> simp
  rename_i h8
  exact Or.inl (hkind 8 (by omega) h8)

/-- A well-formed cue row, heard, has its cue accepted (R126, R127). -/
theorem exec_accepted {i : Instr} {dest kind : Byte} {due : Due} {payload : List Byte} {s : State}
    (hmessage : i.cueMessage? = some (dest, kind, due, payload, 0)) (hwell : i.wellFormed = true)
    (hshape : shapeDefined s kind payload) (hlisten : listening s dest) :
    ∃ cue, cueOf kind payload = some cue ∧ cue.code = kind ∧
      exec i s = .next (acceptCue (afterMessage s) cue due) := by
  obtain ⟨_, hsize, hnow, hrange, cue, hcue, hcode⟩ := wellFormed_checks hmessage hwell
  refine ⟨cue, hcue, hcode, ?_⟩
  have hlength := bodyChars_length kind due payload
  have hsmall := payloadSize_le hsize
  have hstamp : stampSize due ≤ 4 := by cases due <;> simp [stampSize]
  have hnowStamp : (kind = 8 ∨ kind = 9) → stampSize due = 0 := fun h => by rw [hnow h]; rfl
  have hshapes : ¬ (kind = 1 ∧ (payload.getD 1 0).toNat ≤ 15 ∧
      shapeMask (afterMessage s) (payload.getD 1 0).toNat = 0) := fun ⟨hkind, hlow, hundefined⟩ =>
    (hshape hkind).elim (fun h => by omega) fun h => h hundefined
  have hchecked := checkBody_passes (afterMessage s) kind due payload cue hsize hnow hrange hshapes hcue
  have hhigh : (bodyChars kind due payload).length ≤ 9 := by
    rcases hsmall.2 with h | h
    · rw [hlength, hnowStamp h]
      omega
    · omega
  rw [exec_heard hmessage hlisten (by omega) hhigh, completeMessage_sized]
  rw [if_neg (by simp), fallAsleep_afterMessage, hchecked]

/-- Accepted in RUNNING, a cue due NOW is executed. -/
theorem exec_now {i : Instr} {dest kind : Byte} {payload : List Byte} {s : State} {cue : MusicalCue}
    (hmessage : i.cueMessage? = some (dest, kind, .now, payload, 0)) (hwell : i.wellFormed = true)
    (hshape : shapeDefined s kind payload) (hlisten : listening s dest)
    (hengine : s.setup.engine = .running) (hcue : cueOf kind payload = some (.musical cue)) :
    exec i s = .next (executeMusical false cue (afterMessage s)) := by
  obtain ⟨cue', hcue', _, hrun⟩ := exec_accepted hmessage hwell hshape hlisten
  obtain rfl : cue' = .musical cue := Option.some.inj (hcue'.symm.trans hcue)
  have hrunning : (afterMessage s).setup.engine = .running := hengine
  rw [hrun, acceptCue, hrunning]
  rfl

/-- What a plan touches, seen from before the message. -/
theorem afterMessage_frame {s t : State} (h : planOnly (afterMessage s) t) :
    planOnly s { t with crx := s.crx } ∧ t.crx = heard s := by
  refine ⟨?_, h.crx⟩
  obtain ⟨_, _, _, _, ⟨_, _, _, _⟩, _, _, _, _, _, _, _, _, ⟨_, _, _, _, _, _, _, _⟩⟩ := s
  obtain ⟨_, _, _, _, ⟨_, _, _, _⟩, _, _, _, _, _, _, _, _, ⟨_, _, _, _, _, _, _, _⟩⟩ := t
  simp only [afterMessage, planOnly, State.mk.injEq, BusPath.mk.injEq, ReportUnit.mk.injEq,
    true_and, and_true] at h ⊢
  simp only [h, and_self]

theorem shapeDefined_other {s : State} {kind : Byte} {payload : List Byte} (h : kind ≠ 1) :
    shapeDefined s kind payload := fun hkind => absurd hkind h

/-! ### KEY and CHORD (R37, R52) -/

theorem replanAll_kept (s : State) : (replanAll s).pln.key = s.pln.key ∧
    (replanAll s).pln.chord = s.pln.chord ∧ (replanAll s).pln.hold = s.pln.hold ∧
    (replanAll s).pln.deferredKey = s.pln.deferredKey ∧
    (replanAll s).pln.deferredChord = s.pln.deferredChord := by
  rw [replanAll_pln]
  exact ⟨rfl, rfl, rfl, rfl, rfl⟩

theorem executeKey_held {s : State} (h : s.pln.hold = true) (fromOnset : Bool) (k : Key) :
    executeMusical fromOnset (.key k) s = { s with pln := { s.pln with deferredKey := some k } } :=
  if_pos h

theorem executeKey_free {s : State} (h : s.pln.hold = false) (fromOnset : Bool) (k : Key) :
    executeMusical fromOnset (.key k) s =
      if fromOnset then { s with pln := { s.pln with key := k } }
      else replanAll { s with pln := { s.pln with key := k } } :=
  if_neg (by simp [h])

theorem executeChord_held {s : State} (h : s.pln.hold = true) (fromOnset : Bool) (c : Option Chord) :
    executeMusical fromOnset (.chord c) s =
      { s with pln := { s.pln with deferredChord := some c } } :=
  if_pos h

theorem executeChord_free {s : State} (h : s.pln.hold = false) (fromOnset : Bool) (c : Option Chord) :
    executeMusical fromOnset (.chord c) s =
      if fromOnset then { s with pln := { s.pln with chord := checkedChord s c } }
      else replanAll { s with pln := { s.pln with chord := checkedChord s c } } :=
  if_neg (by simp [h])

theorem checkedChord_defined {s : State} {c : Chord} (h : shapeMask s c.shape ≠ 0) :
    checkedChord s (some c) = some c := if_neg h

theorem checkedChord_undefined {s : State} {c : Chord} (h : shapeMask s c.shape = 0) :
    checkedChord s (some c) = none := if_pos h

/-- Settles O44. -/
theorem keyAndChordCues : Obligations.KeyAndChordCues := by
  refine ⟨fun s dest root hengine hlisten hroot => ⟨fun scale hscale => ?_, fun shape hshape => ?_⟩,
    fun u fromOnset => ?_⟩
  · have hwell : (Instr.key dest .now root scale 0).wellFormed = true := by
      simp [Instr.wellFormed, hroot, hscale]
    have hrun := exec_now rfl hwell (shapeDefined_other (by decide)) hlisten hengine
      (cue := .key ⟨root.toNat, scale.toNat⟩) rfl
    have hframe := executeMusical_planOnly false (.key ⟨root.toNat, scale.toNat⟩) (afterMessage s)
    obtain ⟨hplan, hcrx⟩ := afterMessage_frame hframe
    cases hhold : s.pln.hold with
    | true =>
      rw [executeKey_held (s := afterMessage s) hhold] at hrun hplan
      exact ⟨_, hrun, hplan, rfl, hhold, rfl, rfl, by simp, fun _ => rfl⟩
    | false =>
      rw [executeKey_free (s := afterMessage s) hhold, if_neg (by decide)] at hrun hplan hcrx
      obtain ⟨hkey, hchord, hkept, hdeferred, hdeferredChord⟩ := replanAll_kept { afterMessage s with
        pln := { (afterMessage s).pln with key := ⟨root.toNat, scale.toNat⟩ } }
      refine ⟨_, hrun, hplan, hcrx, ?_, ?_, ?_, fun _ => ⟨?_, ?_, ?_⟩, by simp⟩
      · rw [hkept]
        exact hhold
      · rw [hchord]
        rfl
      · rw [hdeferredChord]
        rfl
      · rw [hkey]
      · rw [hdeferred]
        rfl
      · rfl
  · intro chord
    have hwell : (Instr.chord dest .now root shape 0).wellFormed = true := by
      simp only [Instr.wellFormed, decide_eq_true_eq]
      exact ⟨hroot, hshape.elim Or.inr fun h => Or.inl h.1, trivial⟩
    have hdefined : shapeDefined s 1 [root, shape] := fun _ => hshape.imp id And.right
    have hrun := exec_now rfl hwell hdefined hlisten hengine (cue := .chord chord) rfl
    have hframe := executeMusical_planOnly false (.chord chord) (afterMessage s)
    obtain ⟨hplan, hcrx⟩ := afterMessage_frame hframe
    have hchecked : checkedChord (afterMessage s) chord = chord := by
      by_cases h255 : shape.toNat = 255
      · simp [chord, h255, checkedChord]
      · have hmask : shapeMask (afterMessage s) shape.toNat ≠ 0 := (hshape.resolve_left h255).2
        simp only [chord, h255, if_false]
        exact checkedChord_defined hmask
    cases hhold : s.pln.hold with
    | true =>
      rw [executeChord_held (s := afterMessage s) hhold] at hrun hplan
      exact ⟨_, hrun, hplan, rfl, hhold, rfl, rfl, by simp, fun _ => rfl⟩
    | false =>
      rw [executeChord_free (s := afterMessage s) hhold, if_neg (by decide), hchecked]
        at hrun hplan hcrx
      obtain ⟨hkey, hchord, hkept, hdeferred, hdeferredChord⟩ :=
        replanAll_kept { afterMessage s with pln := { (afterMessage s).pln with chord := chord } }
      refine ⟨_, hrun, hplan, hcrx, ?_, ?_, ?_, fun _ => ⟨?_, ?_, ?_⟩, by simp⟩
      · rw [hkept]
        exact hhold
      · rw [hkey]
        rfl
      · rw [hdeferred]
        rfl
      · rw [hchord]
      · rw [hdeferredChord]
        rfl
      · rfl
  · intro planned
    refine ⟨fun k => ⟨fun hfree => executeKey_free hfree _ _, fun hheld => executeKey_held hheld _ _⟩,
      fun c hheld => executeChord_held hheld _ _, fun hfree => ⟨executeChord_free hfree _ _,
      fun c => ⟨fun hdefined => ?_, fun hundefined => ?_⟩⟩⟩
    · rw [executeChord_free hfree, checkedChord_defined hdefined]
    · rw [executeChord_free hfree, checkedChord_undefined hundefined]

/-! ### VOICE_ON and VOICE_OFF (R40, R41) -/

/-- The plans of a mask's voices, switched on (R40). -/
def markEnabled (mask : BitVec 4) (s : State) : State := (maskVoices mask).foldl enableVoice s

/-- The plans of a mask's voices, switched off (R41). -/
def clearEnabled (mask : BitVec 4) (s : State) : State := (maskVoices mask).foldl clearEnable s

theorem markEnabled_frame (mask : BitVec 4) (s : State) : markEnabled mask s =
    { s with pln := { s.pln with voices := (markEnabled mask s).pln.voices } } :=
  (foldl_enableVoice _ s).1

theorem planOf_markEnabled (mask : BitVec 4) (s : State) (v : Fin 4) : planOf (markEnabled mask s) v =
    if mask.getLsbD v.val = true ∧ (planOf s v).enable = false then
      { planOf s v with enable := true, newlyEnabled := true }
    else planOf s v := by
  unfold markEnabled
  rw [(foldl_enableVoice _ s).2 v]
  simp only [mem_maskVoices]

theorem clearEnabled_frame (mask : BitVec 4) (s : State) : clearEnabled mask s =
    { s with pln := { s.pln with voices := (clearEnabled mask s).pln.voices } } :=
  (foldl_clearEnable _ s).1

theorem planOf_clearEnabled (mask : BitVec 4) (s : State) (v : Fin 4) :
    planOf (clearEnabled mask s) v =
      if mask.getLsbD v.val = true ∧ (planOf s v).enable = true then
        { planOf s v with enable := false, newlyEnabled := false }
      else planOf s v := by
  unfold clearEnabled
  rw [(foldl_clearEnable _ s).2 v]
  simp only [mem_maskVoices]

/-- Disable claims handed in order. -/
def handDisables (l : List (Fin 4)) (s : State) : State :=
  l.foldl (fun u v => handClaim u v .disable) s

theorem handDisables_pln (l : List (Fin 4)) (s : State) : (handDisables l s).pln = s.pln := by
  unfold handDisables
  induction l generalizing s with
  | nil => rfl
  | cons v rest ih => rw [List.foldl_cons, ih, handClaim_pln]

theorem handDisables_rpt (l : List (Fin 4)) (s : State) : (handDisables l s).rpt = s.rpt := by
  unfold handDisables
  induction l generalizing s with
  | nil => rfl
  | cons v rest ih => rw [List.foldl_cons, ih, handClaim_rpt]

theorem executeVoiceOn_eq (fromOnset : Bool) (mask : BitVec 4) (s : State) :
    executeMusical fromOnset (.voiceOn mask) s =
      if fromOnset then markEnabled mask s else replanAll (markEnabled mask s) := rfl

theorem executeVoiceOff_eq (fromOnset : Bool) (mask : BitVec 4) (s : State) :
    executeMusical fromOnset (.voiceOff mask) s =
      handDisables ([0, 1, 2, 3].filter (fun v : Fin 4 => mask.getLsbD v.val && (planOf s v).enable &&
        !(planOf s v).newlyEnabled)) (clearEnabled mask s) := by
  have hvoices : (maskVoices mask).filter (handsDisable s) =
      [0, 1, 2, 3].filter (fun v : Fin 4 => mask.getLsbD v.val && (planOf s v).enable &&
        !(planOf s v).newlyEnabled) := by
    unfold maskVoices
    rw [List.filter_filter]
    refine List.filter_congr fun v _ => ?_
    simp only [handsDisable, Bool.and_assoc, Bool.and_comm]
  show (maskVoices mask).foldl disableVoice s = _
  rw [foldl_disableVoice_mask, hvoices]
  rfl

/-! ### Plans handed (R40, R48) -/

theorem target_eq (p : VoicePlan) :
    p.target = p.note.bind (fun n => p.shift.map (fun x => ⟨n, x⟩)) := by
  unfold VoicePlan.target
  cases p.note <;> cases p.shift <;> rfl

theorem replanAll_steps (s : State) : replanAll s =
    handVoice (handVoice (handVoice (handVoice
      (planVoice (planVoice (planVoice (planVoice s 0 []) 1 [0]) 2 [0, 1]) 3 [0, 1, 2])
      0) 1) 2) 3 := by
  have h0 : lowerVoices 0 = [] := by decide
  have h1 : lowerVoices 1 = [0] := by decide
  have h2 : lowerVoices 2 = [0, 1] := by decide
  have h3 : lowerVoices 3 = [0, 1, 2] := by decide
  rw [replanAll_eq, planAll]
  simp only [List.foldl_cons, List.foldl_nil, h0, h1, h2, h3]

theorem handVoice_new {s : State} {v : Fin 4} (h : (planOf s v).newlyEnabled = true) :
    handVoice s v = handClaim (setPlan s v (planOf s v).afterHanding) v
      (.enable (planOf s v).target) := if_pos h

theorem handVoice_unchanged {s : State} {v : Fin 4} (h : (planOf s v).newlyEnabled = false)
    (hsame : (planOf s v).target.map (·.note) = (planOf s v).handed) :
    handVoice s v = setPlan s v (planOf s v).afterHanding := by
  simp [handVoice, h, hsame]

theorem handVoice_changed {s : State} {v : Fin 4} (h : (planOf s v).newlyEnabled = false)
    (hchanged : (planOf s v).target.map (·.note) ≠ (planOf s v).handed) :
    handVoice s v = handClaim (setPlan s v (planOf s v).afterHanding) v
      ((planOf s v).target.elim .withdraw .update) := by
  unfold handVoice
  simp only [h, Bool.false_eq_true, if_false, if_neg hchanged]
  cases (planOf s v).target <;> rfl

/-! ### Claims taken (R65 to R70, R76) -/

/-- A claim at a record no tap read holds is taken at once (R76). -/
theorem handClaim_free {s : State} {v : Fin 4}
    (h : ∀ r, s.bus.cycle = some (.tap r) → r.offset < 8 ∧ r.offset % 4 ≠ v.val) (c : Claim) :
    handClaim s v c = takeClaim s v c := by
  unfold handClaim
  split
  · rename_i r hr
    obtain ⟨hvoice, hother⟩ := h r hr
    have hfree : r.holds v = false := by
      rw [TapRead.holds, decide_eq_false_iff_not]
      omega
    simp [hfree]
  · rfl

theorem glideToward_eq (current goal : Int) (limit : Nat) : glideToward current goal limit =
    if (goal - current).natAbs ≤ limit then goal
    else if current < goal then current + limit else current - limit := by
  unfold glideToward
  by_cases h : (goal - current).natAbs ≤ limit
  · rw [if_pos (by omega), if_pos h]
  · rw [if_neg (by omega), if_neg h]

theorem glideStep_at_target {r : VoiceRecord} {t : Target} (ht : r.target = some t)
    (h : t.shift = r.current) (glide : Nat) : glideStep glide r = r := by
  simp [glideStep, ht, h]

theorem glideStep_toward {r : VoiceRecord} {t : Target} (ht : r.target = some t)
    (h : t.shift ≠ r.current) (glide : Nat) : glideStep glide r = { r with
      current := glideToward r.current t.shift glide
      ratio := ratioOf (glideToward r.current t.shift glide) } := by
  simp [glideStep, ht, h]

/-- A shift update at a record with a target: the shift, and a glide step where the voice has a position
(R69). -/
theorem takeShift_target {r : VoiceRecord} {t : Target} (ht : r.target = some t) (glide : Nat)
    (x : Int) : takeShift glide x r =
      if r.state = .silent ∨ r.state = .parked then { r with target := some { t with shift := x } }
      else glideStep glide { r with target := some { t with shift := x } } := by
  unfold takeShift
  rw [ht]
  cases hstate : r.state <;> simp

/-- Settles O45. -/
theorem voiceOnAndOffCues : Obligations.VoiceOnAndOffCues := by
  refine ⟨fun s dest mask hengine hlisten hlow hhigh => ?_, fun u fromOnset mask => ?_,
    replanAll_steps, fun u v => ?_, fun u v c hfree => handClaim_free hfree c, fun s glide r => ?_⟩
  · have hmask (v : Fin 4) : (mask.setWidth 4).getLsbD v.val = mask.getLsbD v.val := by simp
    have hok : maskOk mask = true := decide_eq_true ⟨hlow, hhigh⟩
    refine ⟨?_, ?_⟩
    · have hwell : (Instr.voiceOn dest .now mask 0).wellFormed = true := by
        simp [Instr.wellFormed, hok]
      have hrun := exec_now rfl hwell (shapeDefined_other (by decide)) hlisten hengine
        (cue := .voiceOn (mask.setWidth 4)) rfl
      obtain ⟨hplan, hcrx⟩ := afterMessage_frame
        (executeMusical_planOnly false (.voiceOn (mask.setWidth 4)) (afterMessage s))
      have hframe := markEnabled_frame (mask.setWidth 4) (afterMessage s)
      have hplans := planOf_markEnabled (mask.setWidth 4) (afterMessage s)
      rw [executeVoiceOn_eq, if_neg (by decide)] at hrun hplan hcrx
      generalize markEnabled (mask.setWidth 4) (afterMessage s) = marked at hrun hplan hcrx hframe hplans
      simp only [hmask] at hplans
      refine ⟨marked, _, hrun, rfl, hframe, hplans, hplan, hcrx, ?_, fun v => ?_⟩
      · have hpln : marked.pln = { s.pln with voices := marked.pln.voices } := congrArg State.pln hframe
        have hplanned := replanAll_pln marked
        rw [hpln] at hplanned
        exact hplanned
      · rw [planOf_replanAll_kept, hplans v]
        by_cases hnamed : mask.getLsbD v.val = true ∧ (planOf (afterMessage s) v).enable = false
        · rw [if_pos hnamed]
          exact ⟨by simp [hnamed.1], rfl, rfl, rfl⟩
        · rw [if_neg hnamed]
          refine ⟨?_, rfl, rfl, rfl⟩
          show (planOf s v).enable = ((planOf s v).enable || mask.getLsbD v.val)
          have hunnamed : ¬ (mask.getLsbD v.val = true ∧ (planOf s v).enable = false) := hnamed
          cases henable : (planOf s v).enable with
          | true => rfl
          | false =>
            have hunmasked : mask.getLsbD v.val = false := by simpa [henable] using hunnamed
            rw [hunmasked]
            rfl
    · have hwell : (Instr.voiceOff dest .now mask 0).wellFormed = true := by
        simp [Instr.wellFormed, hok]
      have hrun := exec_now rfl hwell (shapeDefined_other (by decide)) hlisten hengine
        (cue := .voiceOff (mask.setWidth 4)) rfl
      obtain ⟨hplan, hcrx⟩ := afterMessage_frame
        (executeMusical_planOnly false (.voiceOff (mask.setWidth 4)) (afterMessage s))
      have hframe := clearEnabled_frame (mask.setWidth 4) (afterMessage s)
      have hplans := planOf_clearEnabled (mask.setWidth 4) (afterMessage s)
      rw [executeVoiceOff_eq] at hrun hplan hcrx
      generalize clearEnabled (mask.setWidth 4) (afterMessage s) = cleared at hrun hplan hcrx hframe hplans
      simp only [hmask] at hplans hrun hplan hcrx
      refine ⟨cleared, _, hrun, rfl, hframe, hplans, handDisables_pln _ _, ?_, hplan, hcrx⟩
      rw [handDisables_rpt, hframe]
      rfl
  · refine ⟨⟨markEnabled mask u, markEnabled_frame mask u, planOf_markEnabled mask u,
      executeVoiceOn_eq _ _ _⟩, clearEnabled mask u, clearEnabled_frame mask u,
      planOf_clearEnabled mask u, executeVoiceOff_eq _ _ _⟩
  · intro p target given
    have htarget : p.target = target := target_eq p
    have hgiven : setPlan u v p.afterHanding = given := by
      rw [VoicePlan.afterHanding, htarget]
    refine ⟨fun hnew => ?_, fun hold => ⟨fun hsame => ?_, fun hchanged => ⟨fun x hx => ?_,
      fun hnone => ?_⟩⟩⟩
    · rw [handVoice_new hnew, hgiven, htarget]
    · rw [handVoice_unchanged hold (by rw [htarget]; exact hsame), hgiven]
    · rw [handVoice_changed hold (by rw [htarget]; exact hchanged), hgiven, htarget, hx]
      rfl
    · rw [handVoice_changed hold (by rw [htarget]; exact hchanged), hgiven, htarget, hnone]
      rfl
  · intro takes dropped
    refine ⟨fun h => ?_, fun h henable => ?_, fun h => ?_, fun h => ?_, fun h => ?_, fun h => ?_,
      fun x => ⟨fun hnone => ?_, fun u hu => ?_⟩⟩
    · simp [takes, dropped, claimOn, takeEnable, takeWithdrawal, dropTarget, h]
    · simp [takes, dropped, claimOn, takeEnable, takeWithdrawal, dropTarget, h]
    · simp [takes, claimOn, takeDisable, h]
    · rcases h with h | h <;> simp [takes, claimOn, takeDisable, h]
    · rcases h with h | h <;>
        simp [takes, dropped, claimOn, takeDisable, takeWithdrawal, dropTarget, h]
    · rcases h with h | h | h <;> simp [takes, dropped, claimOn, takeWithdrawal, dropTarget, h]
    · simp [takes, claimOn, takeShift, hnone]
    · intro shifted current
      have hstep : claimOn s glide (.shift x) r =
          if r.state = .silent ∨ r.state = .parked then shifted else glideStep glide shifted :=
        takeShift_target hu glide x
      refine ⟨fun h => ?_, fun h hmoves => ?_⟩
      · show claimOn s glide (.shift x) r = shifted
        rw [hstep]
        rcases h with h | h | h
        · exact if_pos (Or.inl h)
        · exact if_pos (Or.inr h)
        · rw [glideStep_at_target (r := shifted) rfl h, ite_self]
      · have hpositioned : ¬ (r.state = .silent ∨ r.state = .parked) := by
          rcases h with h | h | h <;> simp [h]
        show claimOn s glide (.shift x) r = _
        rw [hstep, if_neg hpositioned, glideStep_toward (r := shifted) rfl hmoves, glideToward_eq]

/-! ### VOICE_MODE, HOLD and RELEASE (R42, R51, R54) -/

theorem modeParameterOk_of_inRange {mode parameter : Byte} {m : Mode}
    (hm : Mode.ofCode mode.toNat = some m) (hin : m.inRange parameter.toInt = true) :
    modeParameterOk mode parameter = true := by
  unfold Mode.ofCode at hm
  unfold modeParameterOk
  generalize mode.toNat = k at hm ⊢
  match k with
  | 0 | 1 | 2 =>
    obtain rfl := Option.some.inj hm
    exact hin
  | 3 =>
    obtain rfl := Option.some.inj hm
    exact decide_eq_true (of_decide_eq_true hin).1
  | n + 4 => exact absurd hm (by simp)

theorem executeVoiceMode_held {s : State} (h : s.pln.hold = true) (fromOnset : Bool) (v : Fin 4)
    (m : Mode) (x : Int) : executeMusical fromOnset (.voiceMode v m x) s =
      setPlan s v { planOf s v with deferredMode := some (m, x) } := if_pos h

theorem executeVoiceMode_free {s : State} (h : s.pln.hold = false) (fromOnset : Bool) (v : Fin 4)
    (m : Mode) (x : Int) : executeMusical fromOnset (.voiceMode v m x) s =
      if fromOnset then setPlan s v { planOf s v with live := ⟨m, x, (planOf s v).live.fallback⟩ }
      else replanOne (setPlan s v { planOf s v with live := ⟨m, x, (planOf s v).live.fallback⟩ }) v :=
  if_neg (by simp [h])

theorem replanOne_pln (s : State) (v : Fin 4) :
    (replanOne s v).pln = { s.pln with voices := (replanOne s v).pln.voices } := by
  have hplan : (planVoice s v (otherVoices v)).pln =
      { s.pln with voices := (planVoice s v (otherVoices v)).pln.voices } :=
    congrArg State.pln (planVoice_planning s v _).frame
  unfold replanOne
  simp only [handVoice_pln, setPlan]
  rw [hplan]

theorem planOf_replanOne_other (s : State) {v w : Fin 4} (h : w ≠ v) :
    planOf (replanOne s v) w = planOf s w := by
  unfold replanOne
  rw [planOf_handVoice, if_neg h, planOf_planVoice_other _ _ h]

/-- A re-plan of one voice keeps its enable and its live and deferred modes. -/
theorem planOf_replanOne_kept (s : State) (v : Fin 4) :
    (planOf (replanOne s v) v).live = (planOf s v).live ∧
      (planOf (replanOne s v) v).enable = (planOf s v).enable ∧
      (planOf (replanOne s v) v).deferredMode = (planOf s v).deferredMode := by
  unfold replanOne
  rw [planOf_handVoice, if_pos rfl, (planVoice_planning s v _).plans v]
  exact ⟨rfl, rfl, rfl⟩

/-- What RELEASE sets before its re-plan (R54). -/
def releasePlans (s : State) : State :=
  mapPlans
    { s with pln := { s.pln with
        key := s.pln.deferredKey.getD s.pln.key
        chord := (match s.pln.deferredChord with
          | some c => checkedChord s c
          | none => s.pln.chord)
        hold := false, deferredKey := none, deferredChord := none } }
    (fun _ p => p.applyDeferred)

theorem executeRelease_eq (fromOnset : Bool) (s : State) : executeMusical fromOnset .release s =
    if fromOnset then releasePlans s else replanAll (releasePlans s) := rfl

theorem releasePlans_frame (s : State) : releasePlans s = { s with
    pln := ⟨s.pln.deferredKey.getD s.pln.key, (match s.pln.deferredChord with
      | some c => c.bind (fun c => if shapeMask s c.shape = 0 then none else some c)
      | none => s.pln.chord), false, none, none, (releasePlans s).pln.voices⟩ } := rfl

theorem applyDeferred_eq (p : VoicePlan) : p.applyDeferred = { p with
    deferredMode := none
    live := (match p.deferredMode with
      | some (m, x) => ⟨m, x, p.live.fallback⟩
      | none => p.live) } := by
  obtain ⟨_, _, _, deferred, _, _, _⟩ := p
  cases deferred <;> rfl

theorem planOf_releasePlans (s : State) (v : Fin 4) : planOf (releasePlans s) v = { planOf s v with
    deferredMode := none
    live := (match (planOf s v).deferredMode with
      | some (m, x) => ⟨m, x, (planOf s v).live.fallback⟩
      | none => (planOf s v).live) } :=
  (planOf_mapPlans _ _ v).trans (applyDeferred_eq _)

/-- Settles O46. -/
theorem modeHoldAndReleaseCues : Obligations.ModeHoldAndReleaseCues := by
  refine ⟨fun s dest hengine hlisten => ⟨fun voice mode parameter m hvoice hm hin => ?_, ?_, ?_⟩,
    fun u fromOnset => ⟨fun v m parameter => ?_, rfl, releasePlans u, releasePlans_frame u,
      planOf_releasePlans u, executeRelease_eq _ _⟩⟩
  · have hwell : (Instr.voiceMode dest .now voice mode parameter 0).wellFormed = true := by
      simp [Instr.wellFormed, hvoice, modeParameterOk_of_inRange hm hin]
    have hcue : cueOf 5 [voice, mode, parameter] =
        some (.musical (.voiceMode (Fin.ofNat 4 voice.toNat) m parameter.toInt)) := by
      show some (Cue.musical (.voiceMode _ ((Mode.ofCode mode.toNat).getD .scale) _)) = _
      rw [hm]
      rfl
    have hrun := exec_now rfl hwell (shapeDefined_other (by decide)) hlisten hengine hcue
    obtain ⟨hplan, hcrx⟩ := afterMessage_frame (executeMusical_planOnly false
      (.voiceMode (Fin.ofNat 4 voice.toNat) m parameter.toInt) (afterMessage s))
    have hnamed (v : Fin 4) : v.val = voice.toNat ↔ v = Fin.ofNat 4 voice.toNat := by
      rw [Fin.ext_iff, Fin.val_ofNat, Nat.mod_eq_of_lt (by omega)]
    generalize Fin.ofNat 4 voice.toNat = named at hrun hplan hcrx hnamed
    cases hhold : s.pln.hold with
    | true =>
      rw [executeVoiceMode_held (s := afterMessage s) hhold] at hrun hplan
      refine ⟨_, hrun, hplan, rfl, rfl, fun v hv => ?_, fun v hv => ⟨by simp, fun _ => ?_⟩⟩
      · exact planOf_setPlan_other _ _ _ _ fun h => hv ((hnamed v).mpr h)
      · rw [(hnamed v).mp hv]
        rfl
    | false =>
      rw [executeVoiceMode_free (s := afterMessage s) hhold, if_neg (by decide)] at hrun hplan hcrx
      refine ⟨_, hrun, hplan, hcrx, replanOne_pln _ _, fun v hv => ?_,
        fun v hv => ⟨fun _ => ?_, by simp⟩⟩
      · have hother : v ≠ named := fun h => hv ((hnamed v).mpr h)
        rw [planOf_replanOne_other _ hother]
        exact planOf_setPlan_other _ _ _ _ hother
      · obtain rfl := (hnamed v).mp hv
        obtain ⟨hlive, henable, hdeferred⟩ := planOf_replanOne_kept
          (setPlan (afterMessage s) v { planOf s v with
            live := ⟨m, parameter.toInt, (planOf s v).live.fallback⟩ }) v
        rw [planOf_setPlan_same] at hlive henable hdeferred
        exact ⟨rfl, hlive, henable, hdeferred⟩
  · exact ⟨_, exec_now rfl (by rfl) (shapeDefined_other (by decide)) hlisten hengine
      (cue := .hold) rfl, rfl⟩
  · have hrun := exec_now (i := .release dest .now 0) rfl (by rfl) (shapeDefined_other (by decide))
      hlisten hengine (cue := .release) rfl
    obtain ⟨hplan, hcrx⟩ := afterMessage_frame
      (executeMusical_planOnly false .release (afterMessage s))
    have hframe := releasePlans_frame (afterMessage s)
    have hplans := planOf_releasePlans (afterMessage s)
    rw [executeRelease_eq, if_neg (by decide)] at hrun hplan hcrx
    generalize releasePlans (afterMessage s) = released at hrun hplan hcrx hframe hplans
    have hpln := replanAll_pln released
    obtain ⟨hkey, hchord, hhold, hdeferredKey, hdeferredChord⟩ := replanAll_kept released
    have hkept := planOf_replanAll_kept released
    refine ⟨released, replanAll released, hrun, rfl, ?_, ?_, hplans, hplan, hcrx, ?_, ?_, fun c hc => ?_,
      fun hnone => ?_, ?_, ?_, fun v => ?_⟩
    · rw [hframe]
      rfl
    · rw [hpln]
    · rw [hhold, hframe]
    · rw [hkey, hframe]
      rfl
    · have hdeferred : (afterMessage s).pln.deferredChord = some c := hc
      rw [hchord, hframe]
      simp only [hdeferred]
      rfl
    · have hdeferred : (afterMessage s).pln.deferredChord = none := hnone
      rw [hchord, hframe]
      simp only [hdeferred]
      rfl
    · rw [hdeferredKey, hframe]
    · rw [hdeferredChord, hframe]
    · rw [hkept v, hplans v]
      refine ⟨rfl, rfl, fun m x hmode => ?_, fun hmode => ?_⟩
      · have hdeferred : (planOf (afterMessage s) v).deferredMode = some (m, x) := hmode
        simp only [hdeferred]
        rfl
      · have hdeferred : (planOf (afterMessage s) v).deferredMode = none := hmode
        simp only [hdeferred]
        rfl
  · refine ⟨fun h => executeVoiceMode_held h _ _ _ _, fun h => ?_⟩
    intro moded
    rw [executeVoiceMode_free h]
    rfl

end Sys2Proof.Machine
end

section
/-! PROOFS. The cue lists: a cue that joins its list, and the rebase of a TIMEBASE. -/

namespace Sys2Proof.Machine

/-! ### Due stamps (00_scope section 5.6) -/

theorem isDue_iff (count stamp : Word) : isDue count stamp = true ↔
    (stamp - count).toNat = 0 ∨ 2147483648 ≤ (stamp - count).toNat := decide_eq_true_iff

theorem distance_eq_zero_iff (count stamp : Word) : (stamp - count).toNat = 0 ↔ stamp = count := by
  constructor
  · intro h
    have hzero : stamp - count = 0 := BitVec.eq_of_toNat_eq (by simpa using h)
    calc stamp
      _ = stamp - count + count := (BitVec.sub_add_cancel _ _).symm
      _ = count := by rw [hzero]; exact BitVec.zero_add _
  · rintro rfl
    simp

/-! ### The AT list in order (R130, R133) -/

/-- A list in the order of its distances. -/
def ordered (count : Word) (l : List AtEntry) : Prop :=
  l.Pairwise (fun x y => distance count x.stamp ≤ distance count y.stamp)

/-- An entry joins after every entry of no greater distance, and before a greater one. -/
theorem insertAt_split (count : Word) (e : AtEntry) (l : List AtEntry) : ∃ before after,
    l = before ++ after ∧ insertAt count e l = before ++ e :: after ∧
    (∀ x ∈ before, distance count x.stamp ≤ distance count e.stamp) ∧
    ∀ x, after.head? = some x → distance count e.stamp < distance count x.stamp := by
  induction l with
  | nil => exact ⟨[], [], rfl, rfl, by simp, by simp⟩
  | cons x rest ih =>
    unfold insertAt
    by_cases h : distance count x.stamp ≤ distance count e.stamp
    · obtain ⟨before, after, hsplit, hinsert, hbefore, hafter⟩ := ih
      refine ⟨x :: before, after, by rw [hsplit]; rfl, by rw [if_pos h, hinsert]; rfl, ?_, hafter⟩
      exact List.forall_mem_cons.mpr ⟨h, hbefore⟩
    · refine ⟨[], x :: rest, rfl, if_neg h, by simp, fun y hy => ?_⟩
      obtain rfl := Option.some.inj hy
      exact Nat.lt_of_not_le h

/-- In an ordered list the entries from the first greater one on are all greater. -/
theorem ordered_after {count : Word} {before after : List AtEntry} (h : ordered count (before ++ after))
    {n : Nat} (hhead : ∀ x, after.head? = some x → n < distance count x.stamp) :
    ∀ x ∈ after, n < distance count x.stamp := by
  cases after with
  | nil => simp
  | cons y rest =>
    have hy := hhead y rfl
    have hrest := (List.pairwise_cons.mp (List.pairwise_append.mp h).2.1).1
    refine List.forall_mem_cons.mpr ⟨hy, fun x hx => Nat.lt_of_lt_of_le hy (hrest x hx)⟩

/-- Joining keeps the order, and puts the entry last among those of its distance. -/
theorem insertAt_ordered {count : Word} {l : List AtEntry} (h : ordered count l) (e : AtEntry) :
    ordered count (insertAt count e l) ∧ ∀ n,
      (insertAt count e l).filter (fun x => decide (distance count x.stamp = n)) =
        (l ++ [e]).filter (fun x => decide (distance count x.stamp = n)) := by
  obtain ⟨before, after, rfl, hinsert, hbefore, hhead⟩ := insertAt_split count e l
  have hafter := ordered_after h hhead
  rw [hinsert]
  refine ⟨?_, fun n => ?_⟩
  · unfold ordered at h ⊢
    rw [List.pairwise_append] at h ⊢
    obtain ⟨hb, ha, hba⟩ := h
    refine ⟨hb, List.pairwise_cons.mpr ⟨fun x hx => Nat.le_of_lt (hafter x hx), ha⟩, fun x hx y hy => ?_⟩
    rcases List.mem_cons.mp hy with rfl | hy
    · exact hbefore x hx
    · exact hba x hx y hy
  · by_cases hn : distance count e.stamp = n
    · have hnone : after.filter (fun x => decide (distance count x.stamp = n)) = [] := by
        rw [List.filter_eq_nil_iff]
        intro x hx
        have := hafter x hx
        simp
        omega
      simp [List.filter_append, hnone, hn]
    · simp [List.filter_append, hn]

/-- Sorting orders a list, and keeps the old order among equal distances (R133). -/
theorem sortAt_ordered (count : Word) (l : List AtEntry) : ordered count (sortAt count l) ∧ ∀ n,
    (sortAt count l).filter (fun x => decide (distance count x.stamp = n)) =
      l.filter (fun x => decide (distance count x.stamp = n)) := by
  have hfold (l sorted : List AtEntry) (h : ordered count sorted) :
      ordered count (l.foldl (fun sorted e => insertAt count e sorted) sorted) ∧ ∀ n,
        (l.foldl (fun sorted e => insertAt count e sorted) sorted).filter
            (fun x => decide (distance count x.stamp = n)) =
          (sorted ++ l).filter (fun x => decide (distance count x.stamp = n)) := by
    induction l generalizing sorted with
    | nil => exact ⟨h, fun n => by rw [List.append_nil]; rfl⟩
    | cons e rest ih =>
      obtain ⟨hordered, hfilter⟩ := insertAt_ordered h e
      obtain ⟨hsorted, hrest⟩ := ih (insertAt count e sorted) hordered
      refine ⟨hsorted, fun n => ?_⟩
      rw [List.foldl_cons, hrest n, List.filter_append, hfilter n, ← List.filter_append,
        List.append_assoc]
      rfl
  exact hfold l [] List.Pairwise.nil

/-! ### TIMEBASE and CLEAR (R10, R133, R134) -/

theorem executeLate_due {u : State} {e : AtEntry} (h : isDue u.cap.count e.stamp = true)
    (rest : List AtEntry) : executeLate (e :: rest) u = executeLate rest (executeMusical false e.cue
      (raiseEvent u ⟨.cueLate, 2, none, u.cap.count - e.stamp, e.stamp, u.cap.count⟩)) := by
  rw [executeLate, if_pos h]
  rfl

theorem executeLate_waits {u : State} {e : AtEntry} (h : isDue u.cap.count e.stamp = false)
    (rest : List AtEntry) : executeLate (e :: rest) u = executeLate rest u := by
  rw [executeLate, h]
  rfl

/-- A plan's frame about a state whose receiver, capture and lists were set first. -/
theorem planOnly_about {s t : State} {d : Option Word} {r : Receiver} {c : CaptureUnit} {l : Scheduler}
    (h : planOnly { s with pd := d, crx := r, cap := c, csc := l } t) :
    planOnly s { t with crx := s.crx, cap := s.cap, csc := s.csc } := by
  obtain ⟨_, _, _, _, ⟨_, _, _, _⟩, _, _, _, _, _, _, _, _, ⟨_, _, _, _, _, _, _, _⟩⟩ := s
  obtain ⟨_, _, _, _, ⟨_, _, _, _⟩, _, _, _, _, _, _, _, _, ⟨_, _, _, _, _, _, _, _⟩⟩ := t
  simp only [planOnly, State.mk.injEq, BusPath.mk.injEq, ReportUnit.mk.injEq, true_and, and_true]
    at h ⊢
  simp only [h, and_self]

/-- The machine with the count set and the AT list rebased, before the late cues (R133). -/
def rebased (s : State) (count : Word) : State := { afterMessage s with
  cap := { s.cap with count := count }
  csc := { s.csc with
    atList := sortAt count (s.csc.atList.filter fun e => !isDue count e.stamp) } }

theorem executeTimebase_eq (s : State) (count : Word) :
    executeTimebase count (afterMessage s) = executeLate s.csc.atList (rebased s count) := rfl

theorem cueOf_timebase (count : Word) : cueOf 8 (wordChars count) = some (.timebase count) := by
  have hword : charsWord (wordChars count) = count := by
    rw [← List.append_nil (wordChars count)]
    exact charsWord_wordChars count []
  exact congrArg (fun w => some (Cue.timebase w)) hword

/-- Settles O47. -/
theorem timebaseAndClearCues : Obligations.TimebaseAndClearCues := by
  refine ⟨fun s dest hengine hlisten => ⟨fun count => ?_, ?_⟩, fun u => ⟨rfl, fun e rest => ?_⟩⟩
  · intro away due
    have hrunning : (afterMessage s).setup.engine = .running := hengine
    obtain ⟨cue, hcue, _, hrun⟩ := exec_accepted (i := .timebase dest .now count 0)
      (payload := wordChars count) rfl (by rfl) (shapeDefined_other (by decide)) hlisten
    obtain rfl : cue = .timebase count := Option.some.inj (hcue.symm.trans (cueOf_timebase count))
    rw [acceptCue, hrunning] at hrun
    have hlate := executeLate_planOnly s.csc.atList (rebased s count)
    have hlists : (executeLate s.csc.atList (rebased s count)).csc = (rebased s count).csc := hlate.csc
    have hcap : (executeLate s.csc.atList (rebased s count)).cap = (rebased s count).cap := hlate.cap
    have hcrx : (executeLate s.csc.atList (rebased s count)).crx = (rebased s count).crx := hlate.crx
    obtain ⟨hordered, hfilter⟩ := sortAt_ordered count (s.csc.atList.filter fun e => !isDue count e.stamp)
    refine ⟨executeLate s.csc.atList (rebased s count), hrun, ?_, fun n => ?_, ?_, ?_, ?_,
      planOnly_about hlate, ?_⟩
    · rw [hlists]
      rfl
    · rw [hlists]
      refine (hfilter n).trans ?_
      rw [List.filter_filter]
      rfl
    · rw [hlists]
      exact hordered
    · rw [hcap]
      rfl
    · rw [hlists]
      rfl
    · rw [hcrx]
      rfl
  · have hrunning : (afterMessage s).setup.engine = .running := hengine
    obtain ⟨cue, hcue, _, hrun⟩ := exec_accepted (i := .clear dest .now 0) rfl (by rfl)
      (shapeDefined_other (by decide)) hlisten
    obtain rfl : cue = .clear := Option.some.inj (hcue.symm.trans rfl)
    rw [hrun, acceptCue, hrunning]
    rfl
  · refine ⟨fun h => ?_, fun h => ?_⟩
    · exact executeLate_due ((isDue_iff _ _).mpr h) rest
    · exact executeLate_waits (Bool.eq_false_iff.mpr fun hdue => h ((isDue_iff _ _).mp hdue)) rest

/-! ### Acceptance (R130, R137) -/

/-- Every cue but TIMEBASE and CLEAR may stand in a list. -/
theorem cueOf_musical {kind : Byte} {payload : List Byte} {cue : Cue} (h : cueOf kind payload = some cue)
    (h8 : kind ≠ 8) (h9 : kind ≠ 9) : ∃ m, cue = .musical m := by
  have hkind (k : Nat) (hk : k < 256) (hk' : kind ≠ BitVec.ofNat 8 k) : kind.toNat ≠ k := fun h => by
    refine hk' (BitVec.eq_of_toNat_eq ?_)
    rw [BitVec.toNat_ofNat, h, Nat.mod_eq_of_lt hk]
  unfold cueOf at h
  dsimp only at h
  split at h
  case h_8 h' => exact absurd h' (hkind 8 (by omega) h8)
  case h_9 h' => exact absurd h' (hkind 9 (by omega) h9)
  case h_10 => exact absurd h (by simp)
  all_goals exact ⟨_, (Option.some.inj h).symm⟩

/-- A well-formed cue row heard in RUNNING with a due stamp or ONSET goes to the scheduler as a cue that
may stand in a list. -/
theorem exec_scheduled {i : Instr} {dest kind : Byte} {due : Due} {payload : List Byte} {s : State}
    (hmessage : i.cueMessage? = some (dest, kind, due, payload, 0)) (hwell : i.wellFormed = true)
    (hshape : shapeDefined s kind payload) (hlisten : listening s dest)
    (hengine : s.setup.engine = .running) (hdue : due ≠ .now) :
    ∃ cue, cueOf kind payload = some (.musical cue) ∧ cue.code = kind ∧
      exec i s = .next (scheduleMusical (afterMessage s) cue due) := by
  obtain ⟨cue, hcue, hcode, hrun⟩ := exec_accepted hmessage hwell hshape hlisten
  obtain ⟨_, _, hnow, _⟩ := wellFormed_checks hmessage hwell
  obtain ⟨m, rfl⟩ := cueOf_musical hcue (fun h => hdue (hnow (Or.inl h))) fun h => hdue (hnow (Or.inr h))
  have hrunning : (afterMessage s).setup.engine = .running := hengine
  refine ⟨m, hcue, hcode, ?_⟩
  rw [hrun, acceptCue, hrunning]
  rfl

theorem raiseEvent_afterMessage (s : State) (e : Event) :
    raiseEvent (afterMessage s) e = { afterMessage s with rpt := (raiseEvent s e).rpt } :=
  raiseEvent_from e rfl rfl rfl rfl

/-- Settles O49. -/
theorem cuesJoinTheirList : Obligations.CuesJoinTheirList := by
  intro i dest kind due payload s hmessage hwell hshape hlisten hengine taken
  refine ⟨fun hnow cue hcue => ?_, fun stamp hstamp => ?_, fun honset => ?_⟩
  · subst hnow
    exact exec_now hmessage hwell hshape hlisten hengine hcue
  · subst hstamp
    obtain ⟨cue, hcue, hcode, hrun⟩ := exec_scheduled hmessage hwell hshape hlisten hengine (by simp)
    refine ⟨cue, hcue, fun hzero => ?_, fun hpast => ?_, fun hnonzero hahead => ⟨fun hroom => ?_,
      fun hfull => ?_⟩⟩
    · have hsame : stamp = (afterMessage s).cap.count := (distance_eq_zero_iff _ _).mp hzero
      have hdue : isDue (afterMessage s).cap.count stamp = true := (isDue_iff _ _).mpr (Or.inl hzero)
      rw [hrun, scheduleMusical, if_pos hdue, if_pos hsame]
      rfl
    · have hother : stamp ≠ (afterMessage s).cap.count := fun h => by
        have hzero := (distance_eq_zero_iff s.cap.count stamp).mpr h
        omega
      have hdue : isDue (afterMessage s).cap.count stamp = true := (isDue_iff _ _).mpr (Or.inr hpast)
      rw [hrun, scheduleMusical, if_pos hdue, if_neg hother, raiseEvent_afterMessage]
      rfl
    · have hdue : ¬ isDue (afterMessage s).cap.count stamp = true := fun h =>
        ((isDue_iff s.cap.count stamp).mp h).elim hnonzero (Nat.not_le.mpr hahead)
      obtain ⟨before, after, hsplit, hinsert, hbefore, hafter⟩ :=
        insertAt_split s.cap.count ⟨cue, stamp⟩ s.csc.atList
      refine ⟨before, after, hsplit, ?_, hbefore, hafter⟩
      rw [hrun, scheduleMusical, if_neg hdue,
        if_pos (show listedCues (afterMessage s) < 24 from hroom), ← hinsert]
      rfl
    · have hdue : ¬ isDue (afterMessage s).cap.count stamp = true := fun h =>
        ((isDue_iff s.cap.count stamp).mp h).elim hnonzero (Nat.not_le.mpr hahead)
      rw [hrun, scheduleMusical, if_neg hdue,
        if_neg (show ¬ listedCues (afterMessage s) < 24 from Nat.not_lt.mpr hfull),
        raiseEvent_afterMessage, ← hcode]
      rfl
  · subst honset
    obtain ⟨cue, hcue, hcode, hrun⟩ := exec_scheduled hmessage hwell hshape hlisten hengine (by simp)
    refine ⟨cue, hcue, fun hroom => ?_, fun hfull => ?_⟩
    · rw [hrun, scheduleMusical, if_pos (show listedCues (afterMessage s) < 24 from hroom)]
      rfl
    · rw [hrun, scheduleMusical, if_neg (show ¬ listedCues (afterMessage s) < 24 from Nat.not_lt.mpr hfull),
        raiseEvent_afterMessage, ← hcode]
      rfl

end Sys2Proof.Machine
end

section
/-! PROOFS. The receiver: a fall of the line, the failures of the link, and the checks of a message. -/

namespace Sys2Proof.Machine

/-! ### A fall of the line and its rise (R116, R117, R122) -/

theorem seeFall_low {s : State} (h : s.crx.lineLow = true) : seeFall s = s := if_pos h

theorem seeFall_high {s : State} (h : s.crx.lineLow = false) :
    seeFall s = { s with crx := s.crx.fall s.setup.active.general.divisor } :=
  if_neg (by simp [h])

/-- A fall in ASLEEP brings the active divisor into force (R117). -/
theorem seeFall_asleep {s : State} (h : s.crx.state = .asleep) : seeFall s =
    { s with crx := { s.crx with lineLow := true, divisor := fallDivisor s } } := by
  cases hlow : s.crx.lineLow with
  | true =>
    rw [seeFall_low hlow, fallDivisor, if_pos hlow, ← hlow]
  | false =>
    rw [seeFall_high hlow, fallDivisor, Receiver.fall]
    simp only [h, hlow, Bool.false_eq_true, if_false]

/-- A fall in AWAKE stops the character timer (R122). -/
theorem seeFall_awake {s : State} (h : s.crx.state = .awake) : seeFall s =
    { s with crx := { s.crx with lineLow := true, timer := s.crx.timer && s.crx.lineLow } } := by
  cases hlow : s.crx.lineLow with
  | true => rw [seeFall_low hlow, Bool.and_true, ← hlow]
  | false =>
    rw [seeFall_high hlow, Receiver.fall]
    simp only [h, Bool.and_false]

/-- In OFF and IN_BREAK the level of the line alone follows (R118, R125). -/
theorem seeFall_deaf {s : State} (h : s.crx.state = .off ∨ s.crx.state = .inBreak) : seeFall s =
    { s with crx := { s.crx with lineLow := true } } := by
  cases hlow : s.crx.lineLow with
  | true => rw [seeFall_low hlow, ← hlow]
  | false =>
    rw [seeFall_high hlow, Receiver.fall]
    rcases h with h | h <;> simp only [h]

theorem risen_asleep {s : State} (h : s.crx.state = .asleep) : lineRises (seeFall s) =
    { s with crx := { s.crx with lineLow := false, divisor := fallDivisor s } } := by
  rw [seeFall_asleep h]
  rfl

theorem risen_awake {s : State} (h : s.crx.state = .awake) : lineRises (seeFall s) =
    { s with crx := { s.crx with lineLow := false, timer := s.crx.timer && s.crx.lineLow } } := by
  rw [seeFall_awake h]
  rfl

theorem risen_deaf {s : State} (h : s.crx.state = .off ∨ s.crx.state = .inBreak) :
    lineRises (seeFall s) = { s with crx := { s.crx with lineLow := false } } := by
  rw [seeFall_deaf h]
  rfl

/-! ### The failures of the link (R122 to R125) -/

/-- An event of the link raised about a receiver that has changed since. -/
theorem raiseEvent_receiver (s : State) (d : Option Word) (r : Receiver) (e : Event) :
    raiseEvent { s with pd := d, crx := r } e =
      { s with pd := d, crx := r, rpt := (raiseEvent s e).rpt } :=
  raiseEvent_from e rfl rfl rfl rfl

/-- Settles O51. -/
theorem linkFailures : Obligations.LinkFailures := by
  intro s detail count rated
  refine ⟨fun line h => ?_, fun h => ?_, fun h => ?_, fun h => ⟨fun line => ?_, ?_⟩, fun h => ?_,
    fun h htimer => ?_⟩
  · show execLinkBadChar line s = _
    rcases h with h | h
    · have hbegun : (beginStep s).crx.state = .asleep := h
      have hrated : rated = { s.crx with divisor := fallDivisor s } := if_pos h
      simp only [execLinkBadChar, hbegun, risen_asleep hbegun]
      rw [if_neg (by simp [h]), hrated, ← h]
      exact congrArg Host.Outcome.next (raiseEvent_receiver s none _ _)
    · have hbegun : (beginStep s).crx.state = .awake := h
      simp only [execLinkBadChar, hbegun, risen_awake hbegun]
      rw [if_pos h]
      exact congrArg Host.Outcome.next (raiseEvent_receiver s none _ _)
  · show execLinkBreak s = _
    rcases h with h | h
    · have hbegun : (beginStep s).crx.state = .asleep := h
      have hrated : rated = { s.crx with divisor := fallDivisor s } := if_pos h
      simp only [execLinkBreak, hbegun, seeFall_asleep hbegun]
      rw [hrated]
      exact congrArg Host.Outcome.next (raiseEvent_receiver s none _ _)
    · have hbegun : (beginStep s).crx.state = .awake := h
      have hrated : rated = s.crx := if_neg (by simp [h])
      simp only [execLinkBreak, hbegun, seeFall_awake hbegun]
      rw [hrated]
      exact congrArg Host.Outcome.next (raiseEvent_receiver s none _ _)
  · show execBreakEnd s = _
    simp only [execBreakEnd, beginStep_crx, h]
    rfl
  · show execLinkBadChar line s = _
    have hrisen := risen_deaf (s := beginStep s) h
    rcases h with h | h <;> simp only [execLinkBadChar, beginStep_crx, h, hrisen] <;> rfl
  · show execLinkBreak s = _
    have hfallen := seeFall_deaf (s := beginStep s) h
    rcases h with h | h <;> simp only [execLinkBreak, beginStep_crx, h, hfallen] <;> rfl
  · show execBreakEnd s = _
    simp only [execBreakEnd, beginStep_crx, h]
    rw [← h]
    rfl
  · show execLinkTruncated s = _
    rw [execLinkTruncated, if_pos ⟨h, htimer⟩]
    exact congrArg Host.Outcome.next (raiseEvent_receiver s none _ _)

/-! ### The checks of a payload (R126) -/

/-- The mode of a code, and its parameter in range, as the well-formedness of a row asks for them. -/
theorem modeParameterOk_iff {mode parameter : Byte} {m : Mode} (hm : Mode.ofCode mode.toNat = some m) :
    modeParameterOk mode parameter = true ↔ m.inRange parameter.toInt = true := by
  refine ⟨fun h => ?_, modeParameterOk_of_inRange hm⟩
  obtain ⟨m', hm', hin⟩ := modeParameterOk_inRange h
  rw [← Option.some.inj (hm'.symm.trans hm)]
  exact hin

theorem modeOfCode_isSome_iff (code : Nat) : (Mode.ofCode code).isSome = true ↔ code ≤ 3 := by
  match code with
  | 0 | 1 | 2 | 3 => simp [Mode.ofCode]
  | n + 4 => simp [Mode.ofCode]

/-- The first payload character out of its range is the payload's fault (R126, check 5). -/
theorem payloadFault_first {kind : Byte} {payload : List Byte} {k : Nat}
    (hbad : ¬ payloadLegal kind payload k) (hbefore : ∀ m < k, payloadLegal kind payload m) :
    payloadFault kind payload = some (payload.getD k 0, k) := by
  unfold payloadLegal at hbad hbefore
  unfold payloadFault
  dsimp only at hbad hbefore ⊢
  generalize kind.toNat = n at hbad hbefore ⊢
  match n, k with
  | 1, 0 => exact if_pos (Nat.not_le.mp hbad)
  | 1, 1 =>
    have hroot : (payload.getD 0 0).toNat ≤ 11 := hbefore 0 (by decide)
    have hshape : ¬ ((payload.getD 1 0).toNat ≤ 15 ∨ (payload.getD 1 0).toNat = 255) := hbad
    exact (if_neg (by omega)).trans (if_pos (by omega))
  | 2, 0 => exact if_pos (Nat.not_le.mp hbad)
  | 2, 1 =>
    have hroot : (payload.getD 0 0).toNat ≤ 11 := hbefore 0 (by decide)
    exact (if_neg (by omega)).trans (if_pos (Nat.not_le.mp hbad))
  | 3, 0 => exact if_neg hbad
  | 4, 0 => exact if_neg hbad
  | 5, 0 => exact if_pos (Nat.not_le.mp hbad)
  | 5, 1 =>
    have hvoice : (payload.getD 0 0).toNat ≤ 3 := hbefore 0 (by decide)
    have hmode : Mode.ofCode (payload.getD 1 0).toNat = none := by
      rw [← Option.not_isSome_iff_eq_none, modeOfCode_isSome_iff]
      exact hbad
    refine (if_neg (by omega)).trans ?_
    rw [hmode]
  | 5, 2 =>
    have hvoice : (payload.getD 0 0).toNat ≤ 3 := hbefore 0 (by decide)
    have hmode : (payload.getD 1 0).toNat ≤ 3 := hbefore 1 (by decide)
    have hparameter : ¬ modeParameterOk (payload.getD 1 0) (payload.getD 2 0) = true := hbad
    obtain ⟨m, hm⟩ := Option.isSome_iff_exists.mp ((modeOfCode_isSome_iff _).mpr hmode)
    rw [modeParameterOk_iff hm] at hparameter
    refine (if_neg (by omega)).trans ?_
    rw [hm]
    exact if_neg hparameter
  | 0, k => exact absurd trivial hbad
  | 1, k + 2 => exact absurd trivial hbad
  | 2, k + 2 => exact absurd trivial hbad
  | 3, k + 1 => exact absurd trivial hbad
  | 4, k + 1 => exact absurd trivial hbad
  | 5, k + 3 => exact absurd trivial hbad
  | n + 6, k => exact absurd trivial hbad

theorem payloadFault_none {kind : Byte} {payload : List Byte}
    (h : ∀ k, payloadLegal kind payload k) : payloadFault kind payload = none := by
  have h0 := h 0
  have h1 := h 1
  have h2 := h 2
  unfold payloadLegal at h0 h1 h2
  unfold payloadFault
  dsimp only at h0 h1 h2 ⊢
  generalize kind.toNat = n at h0 h1 h2 ⊢
  match n with
  | 1 =>
    have hroot : (payload.getD 0 0).toNat ≤ 11 := h0
    have hshape : (payload.getD 1 0).toNat ≤ 15 ∨ (payload.getD 1 0).toNat = 255 := h1
    exact (if_neg (by omega)).trans (if_neg (by omega))
  | 2 => exact (if_neg (Nat.not_lt.mpr h0)).trans (if_neg (Nat.not_lt.mpr h1))
  | 3 => exact if_pos h0
  | 4 => exact if_pos h0
  | 5 =>
    have hparameter : modeParameterOk (payload.getD 1 0) (payload.getD 2 0) = true := h2
    obtain ⟨m, hm⟩ := Option.isSome_iff_exists.mp ((modeOfCode_isSome_iff _).mpr h1)
    rw [modeParameterOk_iff hm] at hparameter
    refine (if_neg (Nat.not_lt.mpr h0)).trans ?_
    rw [hm]
    exact if_pos hparameter
  | 0 => rfl
  | n + 6 => rfl

end Sys2Proof.Machine
end

section
/-! PROOFS. A message that is turned away, check by check. -/

namespace Sys2Proof.Machine

/-! ### The body check, case by case (R126) -/

theorem checkBody_kind {s : State} {length : Byte} {body : List Byte}
    (h : payloadSize (body.getD 0 0) = none) :
    checkBody s length body = .error ⟨2, body.getD 0 0, 2⟩ := by
  simp only [checkBody, h]

theorem checkBody_code {s : State} {length : Byte} {body : List Byte} {n : Nat}
    (h : payloadSize (body.getD 0 0) = some n)
    (hdue : dueOf (body.getD 1 0) (body.drop 2) = none) :
    checkBody s length body = .error ⟨3, body.getD 1 0, 3⟩ := by
  simp only [checkBody, h, hdue]

theorem checkBody_length {s : State} {length : Byte} {body : List Byte} {n : Nat} {due : Due}
    (h : payloadSize (body.getD 0 0) = some n)
    (hdue : dueOf (body.getD 1 0) (body.drop 2) = some due)
    (hlength : length.toNat ≠ 2 + stampSize due + n) :
    checkBody s length body = .error ⟨1, length, 1⟩ := by
  simp only [checkBody, h, hdue, if_pos hlength]

theorem checkBody_notNow {s : State} {length : Byte} {body : List Byte} {n : Nat} {due : Due}
    (h : payloadSize (body.getD 0 0) = some n)
    (hdue : dueOf (body.getD 1 0) (body.drop 2) = some due)
    (hlength : length.toNat = 2 + stampSize due + n)
    (hnow : (body.getD 0 0 = 8 ∨ body.getD 0 0 = 9) ∧ due ≠ .now) :
    checkBody s length body = .error ⟨4, body.getD 0 0, 2⟩ := by
  simp only [checkBody, h, hdue, if_neg (not_not_intro hlength), if_pos hnow]

theorem checkBody_payload {s : State} {length : Byte} {body : List Byte} {n : Nat} {due : Due}
    (h : payloadSize (body.getD 0 0) = some n)
    (hdue : dueOf (body.getD 1 0) (body.drop 2) = some due)
    (hlength : length.toNat = 2 + stampSize due + n)
    (hnow : ¬ ((body.getD 0 0 = 8 ∨ body.getD 0 0 = 9) ∧ due ≠ .now)) :
    checkBody s length body =
      checkPayload s (body.getD 0 0) due (payloadOf due (body.drop 2)) := by
  simp only [checkBody, h, hdue, if_neg (not_not_intro hlength), if_neg hnow]

theorem checkPayload_fault {s : State} {kind : Byte} {due : Due} {payload : List Byte} {k : Nat}
    (hbad : ¬ payloadLegal kind payload k) (hbefore : ∀ m < k, payloadLegal kind payload m) :
    checkPayload s kind due payload = .error ⟨5, payload.getD k 0, 4 + stampSize due + k⟩ := by
  simp only [checkPayload, payloadFault_first hbad hbefore]

/-- The shape of a CHORD message is looked up where its code is not 255 (R126, check 6). -/
theorem shapeChecked_iff {s : State} {kind : Byte} {payload : List Byte}
    (h : ∀ k, payloadLegal kind payload k) :
    (kind = 1 ∧ (payload.getD 1 0).toNat ≤ 15 ∧ shapeMask s (payload.getD 1 0).toNat = 0) ↔
      ¬ shapeDefined s kind payload := by
  unfold shapeDefined
  constructor
  · rintro ⟨hkind, hlow, hundefined⟩ hdefined
    exact (hdefined hkind).elim (fun h255 => by omega) fun hmask => hmask hundefined
  · intro hundefined
    obtain ⟨hkind, hshape⟩ := Classical.not_imp.mp hundefined
    obtain ⟨h255, hmask⟩ := not_or.mp hshape
    have hlegal : (payload.getD 1 0).toNat ≤ 15 ∨ (payload.getD 1 0).toNat = 255 := by
      have := h 1
      rw [hkind] at this
      exact this
    exact ⟨hkind, hlegal.resolve_right h255, not_not.mp hmask⟩

theorem checkPayload_shape {s : State} {kind : Byte} {due : Due} {payload : List Byte}
    (h : ∀ k, payloadLegal kind payload k) (hshape : ¬ shapeDefined s kind payload) :
    checkPayload s kind due payload =
      .error ⟨6, payload.getD 1 0, 4 + stampSize due + 1⟩ := by
  simp only [checkPayload, payloadFault_none h, if_pos ((shapeChecked_iff h).mpr hshape)]

theorem checkPayload_passes {s : State} {kind : Byte} {due : Due} {payload : List Byte} {cue : Cue}
    (h : ∀ k, payloadLegal kind payload k) (hshape : shapeDefined s kind payload)
    (hcue : cueOf kind payload = some cue) :
    checkPayload s kind due payload = .ok (cue, due) := by
  have hchecked : ¬ (kind = 1 ∧ (payload.getD 1 0).toNat ≤ 15 ∧
      shapeMask s (payload.getD 1 0).toNat = 0) := fun hundefined =>
    (shapeChecked_iff h).mp hundefined hshape
  simp only [checkPayload, payloadFault_none h, if_neg hchecked, hcue]

/-! ### Characters that are not taken (R118, R119, R125) -/

theorem receiveCharacter_deaf {s : State} (h : s.crx.state = .off ∨ s.crx.state = .inBreak)
    (flag : Bool) (value : Byte) :
    receiveCharacter s flag value = { s with crx := { s.crx with lineLow := false } } := by
  unfold receiveCharacter
  rw [risen_deaf h]
  unfold takeCharacter
  rcases h with h | h <;> simp only [h]

theorem foldl_deaf {s : State} (h : s.crx.state = .off ∨ s.crx.state = .inBreak) (chars : List Byte) :
    chars.foldl (fun s c => receiveCharacter s false c)
        { s with crx := { s.crx with lineLow := false } } =
      { s with crx := { s.crx with lineLow := false } } := by
  induction chars with
  | nil => rfl
  | cons c rest ih =>
    rw [List.foldl_cons, receiveCharacter_deaf (s := { s with crx := { s.crx with lineLow := false } }) h]
    exact ih

/-- A data character in ASLEEP leaves the divisor of its fall behind, and nothing else (R117, R119). -/
theorem receiveData_asleep {s : State} (h : s.crx.state = .asleep) (value : Byte) :
    receiveCharacter s false value =
      { s with crx := { s.crx with lineLow := false, divisor := fallDivisor s } } := by
  unfold receiveCharacter
  rw [risen_asleep h]
  unfold takeCharacter
  simp only [h, Bool.false_eq_true, if_false]

theorem foldl_asleep {s : State} (h : s.crx.state = .asleep) (hhigh : s.crx.lineLow = false)
    {chars : List Byte} (hchars : chars ≠ []) :
    chars.foldl (fun s c => receiveCharacter s false c) s =
      { s with crx := { s.crx with divisor := s.setup.active.general.divisor } } := by
  induction chars generalizing s with
  | nil => exact absurd rfl hchars
  | cons c rest ih =>
    have hone : receiveCharacter s false c =
        { s with crx := { s.crx with divisor := s.setup.active.general.divisor } } := by
      have hdivisor : fallDivisor s = s.setup.active.general.divisor := if_neg (by simp [hhigh])
      rw [receiveData_asleep h, hdivisor, ← hhigh]
    rw [List.foldl_cons, hone]
    cases rest with
    | nil => rfl
    | cons d ds => exact ih (s := { s with crx := { s.crx with divisor := _ } }) h hhigh (by simp)

/-- An address character that does not name the part leaves a receiver ASLEEP (R119). -/
theorem receiveAddress_other {s : State} (h : s.crx.state = .asleep) {dest : Byte}
    (hother : ¬ namesPart s dest) : receiveCharacter s true dest =
      { s with crx := { s.crx with lineLow := false, divisor := fallDivisor s } } := by
  unfold receiveCharacter
  rw [risen_asleep h]
  unfold takeCharacter
  simp only [h, if_true]
  refine if_neg fun hmatches => hother ?_
  unfold addressMatches at hmatches
  have hnamed := of_decide_eq_true hmatches
  exact hnamed

/-! ### Cue rows (R119 to R127) -/

theorem cueMessage_size {i : Instr} {dest kind : Byte} {due : Due} {payload : List Byte}
    {e : BitVec 16} (h : i.cueMessage? = some (dest, kind, due, payload, e)) :
    payloadSize kind = some payload.length := by
  cases i <;> simp only [Instr.cueMessage?, Option.some.injEq, Prod.mk.injEq, reduceCtorEq] at h <;>
    obtain ⟨rfl, rfl, rfl, rfl, rfl⟩ := h <;> rfl

/-- A cue row's L is in its range but where a TIMEBASE is due AT (R120). -/
theorem bodyChars_range {i : Instr} {dest kind : Byte} {due : Due} {payload : List Byte}
    {e : BitVec 16} (h : i.cueMessage? = some (dest, kind, due, payload, e))
    (hstamped : kind = 8 → due.isNow = true ∨ due = .onset) :
    2 ≤ (bodyChars kind due payload).length ∧ (bodyChars kind due payload).length ≤ 9 := by
  rw [bodyChars_length]
  have hstamp : stampSize due ≤ 4 := by cases due <;> simp [stampSize]
  refine ⟨by omega, ?_⟩
  cases i <;> simp only [Instr.cueMessage?, Option.some.injEq, Prod.mk.injEq, reduceCtorEq] at h <;>
    obtain ⟨rfl, rfl, rfl, rfl, rfl⟩ := h
  case timebase dest due count e =>
    have hnone : stampSize due = 0 := by
      rcases hstamped rfl with hnow | honset
      · cases due with
        | now => rfl
        | atStamp stamp => exact absurd hnow (by simp [Due.isNow])
        | onset => rfl
      · rw [honset]
        rfl
    simp [hnone]
  all_goals
    simp only [List.length_cons, List.length_nil]
    omega

/-- The body check of a row's own characters: its kind, due code and length are right (R126). -/
theorem checkBody_row (s : State) {kind : Byte} {due : Due} {payload : List Byte}
    (hsize : payloadSize kind = some payload.length)
    (hlength : (bodyChars kind due payload).length ≤ 9) :
    checkBody s (BitVec.ofNat 8 (bodyChars kind due payload).length) (bodyChars kind due payload) =
      if (kind = 8 ∨ kind = 9) ∧ due ≠ .now then .error ⟨4, kind, 2⟩
      else checkPayload s kind due payload := by
  obtain ⟨hdue, hpayload, hkind, hchars⟩ := dueOf_bodyChars kind due payload
  have hsized : (BitVec.ofNat 8 (bodyChars kind due payload).length).toNat =
      2 + stampSize due + payload.length := by
    rw [BitVec.toNat_ofNat, Nat.mod_eq_of_lt (by omega), hchars]
  rw [← hkind] at hsize
  split
  · rename_i hnow
    rw [checkBody_notNow hsize hdue hsized (by rw [hkind]; exact hnow), hkind]
  · rename_i hnow
    rw [checkBody_payload hsize hdue hsized (by rw [hkind]; exact hnow), hkind, hpayload]

/-- A message heard with the right CRC whose body fails is reported by the first check it fails. -/
theorem exec_badBody {i : Instr} {dest kind : Byte} {due : Due} {payload : List Byte} {s : State}
    {f : BodyFault} (hmessage : i.cueMessage? = some (dest, kind, due, payload, 0))
    (hlisten : listening s dest) (hstamped : kind = 8 → due.isNow = true ∨ due = .onset)
    (hbody : (if (kind = 8 ∨ kind = 9) ∧ due ≠ .now then .error ⟨4, kind, 2⟩
      else checkPayload (afterMessage s) kind due payload) = .error f) :
    exec i s = .next { afterMessage s with rpt := (raiseEvent s ⟨.linkBadCue, f.detail, none,
      f.value.setWidth 32, BitVec.ofNat 32 f.position, s.cap.count⟩).rpt } := by
  obtain ⟨hlow, hhigh⟩ := bodyChars_range hmessage hstamped
  rw [exec_heard hmessage hlisten hlow hhigh, completeMessage_sized, if_neg (by simp),
    fallAsleep_afterMessage, checkBody_row _ (cueMessage_size hmessage) hhigh, hbody]
  exact congrArg Host.Outcome.next (raiseEvent_afterMessage s _)

/-- A TIMEBASE due AT ends at its L, which is out of its range (R120). -/
theorem exec_badLength {dest : Byte} {stamp count : Word} {e : BitVec 16} {s : State}
    (hlisten : listening s dest) : exec (.timebase dest (.atStamp stamp) count e) s = .next { s with
      pd := none
      crx := { heard s with divisor := s.setup.active.general.divisor }
      rpt := (raiseEvent s ⟨.linkBadCue, 1, none, 10, 1, s.cap.count⟩).rpt } := by
  have hawake : takeDataChar { afterMessage s with
      crx := { heard s with state := .awake, timer := false } } 10 =
        { afterMessage s with
          rpt := (raiseEvent s ⟨.linkBadCue, 1, none, 10, 1, s.cap.count⟩).rpt } :=
    raiseEvent_afterMessage s ⟨.linkBadCue, 1, none, 10, 1, s.cap.count⟩
  have hchars : messageChars 8 (.atStamp stamp) (wordChars count) e =
      10 :: (messageChars 8 (.atStamp stamp) (wordChars count) e).tail := rfl
  rw [exec_cueMessage (payload := wordChars count) rfl, takeMessage,
    takeAddress_named (s := beginStep s) hlisten, hchars, List.foldl_cons]
  have hfirst : receiveCharacter
      { beginStep s with crx := { heard (beginStep s) with state := .awake, timer := true } } false 10 =
        { afterMessage s with
          rpt := (raiseEvent s ⟨.linkBadCue, 1, none, 10, 1, s.cap.count⟩).rpt } := by
    rw [receiveCharacter_awake rfl rfl]
    exact hawake
  rw [hfirst, foldl_asleep rfl rfl (by simp [messageChars, bodyChars])]
  rfl

/-- A kind that may stand in a list may come with any due. -/
theorem kind_listable {kind : Byte} (h : kind.toNat ≤ 7) (due : Due) :
    ¬ ((kind = 8 ∨ kind = 9) ∧ due ≠ .now) ∧ (kind = 8 → due.isNow = true ∨ due = .onset) := by
  have height : kind ≠ 8 := fun hkind => absurd h (by rw [hkind]; decide)
  have hnine : kind ≠ 9 := fun hkind => absurd h (by rw [hkind]; decide)
  exact ⟨fun hnow => hnow.1.elim height hnine, fun hkind => absurd hkind height⟩

/-- Settles O48. -/
theorem cuesTurnedAway : Obligations.CuesTurnedAway := by
  intro i dest kind due payload e s hmessage ends stampChars badCue
  have hstampChars : stampChars = stampSize due := by cases due <;> rfl
  refine ⟨fun hlisten => ⟨fun he hstamped => ?_, fun hkind hdue => ?_, fun he hnow => ?_,
    fun he hkind => ⟨fun k hbad hbefore => ?_, fun hlegal hshape => ?_⟩, fun hwell hshape hhalted => ?_⟩,
    fun hasleep hother => ?_, fun hdeaf => ?_⟩
  · obtain ⟨hlow, hhigh⟩ := bodyChars_range hmessage hstamped
    intro computed
    have hcomputed : computed = crcOf (BitVec.ofNat 8 (bodyChars kind due payload).length ::
        bodyChars kind due payload) := by
      simp [computed, messageChars]
    show exec i s = _
    rw [exec_heard hmessage hlisten hlow hhigh, completeMessage_sized, if_pos he, hcomputed]
    exact congrArg Host.Outcome.next (raiseEvent_afterMessage s _)
  · obtain ⟨stamp, rfl⟩ := hdue
    subst hkind
    cases i <;> simp only [Instr.cueMessage?, Option.some.injEq, Prod.mk.injEq, reduceCtorEq] at hmessage
    case timebase dest count e =>
      obtain ⟨rfl, _, rfl, _, _⟩ := hmessage
      exact exec_badLength hlisten
    all_goals exact absurd hmessage.2.1 (by decide)
  · subst he
    have hfails : (kind = 8 ∨ kind = 9) ∧ due ≠ .now := by
      rcases hnow with ⟨hkind, rfl⟩ | ⟨hkind, hdue⟩
      · exact ⟨Or.inl hkind, by simp⟩
      · exact ⟨Or.inr hkind, hdue⟩
    have hstamped : kind = 8 → due.isNow = true ∨ due = .onset := fun hkind => by
      rcases hnow with ⟨_, honset⟩ | ⟨hnine, _⟩
      · exact Or.inr honset
      · exact absurd (hkind.symm.trans hnine) (by decide)
    exact exec_badBody hmessage hlisten hstamped (if_pos hfails)
  · subst he
    obtain ⟨hpassed, hstamped⟩ := kind_listable hkind due
    rw [hstampChars]
    exact exec_badBody hmessage hlisten hstamped
      ((if_neg hpassed).trans (checkPayload_fault hbad hbefore))
  · subst he
    obtain ⟨hpassed, hstamped⟩ := kind_listable hkind due
    have hbad := exec_badBody hmessage hlisten hstamped
      ((if_neg hpassed).trans (checkPayload_shape (s := afterMessage s) hlegal hshape))
    rw [hstampChars, Nat.add_right_comm 4 1 (stampSize due)]
    exact hbad
  · obtain ⟨rfl, _⟩ := wellFormed_checks hmessage hwell
    obtain ⟨cue, hcue, hcode, hrun⟩ := exec_accepted hmessage hwell hshape hlisten
    have hengine : (afterMessage s).setup.engine = .halted := hhalted
    show exec i s = _
    rw [hrun, acceptCue, hengine, ← hcode]
    cases due <;> exact congrArg Host.Outcome.next (raiseEvent_afterMessage s _)
  · rw [exec_cueMessage hmessage, takeMessage, receiveAddress_other (s := beginStep s) hasleep hother]
    exact congrArg Host.Outcome.next (foldl_asleep
      (s := { beginStep s with crx := { s.crx with lineLow := false, divisor := fallDivisor s } })
      hasleep rfl (by simp [messageChars]))
  · rw [exec_cueMessage hmessage, takeMessage, receiveCharacter_deaf (s := beginStep s) hdeaf,
      foldl_deaf (s := beginStep s) hdeaf]
    rfl

end Sys2Proof.Machine
end

section
/-! PROOFS. Characters taken one by one, and the message they complete. -/

namespace Sys2Proof.Machine

/-! ### The processor's data is not the receiver's to change -/

theorem raiseEvent_pd (s : State) (e : Event) : (raiseEvent s e).pd = s.pd := by
  rw [raiseEvent_rptOnly]

theorem handClaim_pd (s : State) (v : Fin 4) (c : Claim) : (handClaim s v c).pd = s.pd := by
  unfold handClaim
  split
  · split <;> rfl
  · rfl

theorem handVoice_pd (s : State) (v : Fin 4) : (handVoice s v).pd = s.pd := by
  unfold handVoice
  dsimp only
  split
  · rw [handClaim_pd, setPlan_pd]
  · split
    · rw [setPlan_pd]
    · split <;> rw [handClaim_pd, setPlan_pd]

theorem replanAll_pd (s : State) : (replanAll s).pd = s.pd := by
  have hplan : (planAll s).pd = s.pd := by rw [(planAll_planning s).frame]
  rw [replanAll_eq]
  simp only [List.foldl_cons, List.foldl_nil, handVoice_pd, hplan]

theorem replanOne_pd (s : State) (v : Fin 4) : (replanOne s v).pd = s.pd := by
  unfold replanOne
  rw [handVoice_pd, (planVoice_planning s v _).frame]

theorem handDisables_pd (l : List (Fin 4)) (s : State) : (handDisables l s).pd = s.pd := by
  unfold handDisables
  induction l generalizing s with
  | nil => rfl
  | cons v rest ih => rw [List.foldl_cons, ih, handClaim_pd]

theorem replanUnless_pd (b : Bool) (s : State) : (replanUnless b s).pd = s.pd := by
  unfold replanUnless
  split
  · rfl
  · exact replanAll_pd s

theorem executeMusical_pd (b : Bool) (cue : MusicalCue) (s : State) :
    (executeMusical b cue s).pd = s.pd := by
  cases cue with
  | chord c =>
    show (executeChord b c s).pd = s.pd
    unfold executeChord
    split
    · rfl
    · rw [replanUnless_pd]
  | key k =>
    show (executeKey b k s).pd = s.pd
    unfold executeKey
    split
    · rfl
    · rw [replanUnless_pd]
  | voiceOn mask =>
    show (replanUnless b (markEnabled mask s)).pd = s.pd
    rw [replanUnless_pd, markEnabled_frame]
  | voiceOff mask => rw [executeVoiceOff_eq, handDisables_pd, clearEnabled_frame]
  | voiceMode v m x =>
    show (executeVoiceMode b v m x s).pd = s.pd
    unfold executeVoiceMode
    dsimp only
    split
    · rfl
    · split
      · rfl
      · rw [replanOne_pd, setPlan_pd]
  | hold => rfl
  | release =>
    show (replanUnless b (releasePlans s)).pd = s.pd
    rw [replanUnless_pd, releasePlans_frame]

theorem executeLate_pd (list : List AtEntry) (s : State) : (executeLate list s).pd = s.pd := by
  induction list generalizing s with
  | nil => rfl
  | cons e rest ih =>
    unfold executeLate
    split
    · rw [ih, executeMusical_pd, raiseEvent_pd]
    · exact ih s

theorem scheduleMusical_pd (s : State) (cue : MusicalCue) (due : Due) :
    (scheduleMusical s cue due).pd = s.pd := by
  unfold scheduleMusical
  split
  · exact executeMusical_pd _ _ _
  · split
    · split
      · exact executeMusical_pd _ _ _
      · rw [executeMusical_pd, raiseEvent_pd]
    · split
      · rfl
      · exact raiseEvent_pd _ _
  · split
    · rfl
    · exact raiseEvent_pd _ _

theorem acceptCue_pd (s : State) (cue : Cue) (due : Due) : (acceptCue s cue due).pd = s.pd := by
  unfold acceptCue
  split
  · cases cue with
    | musical m => exact scheduleMusical_pd s m due
    | timebase count => exact executeLate_pd _ _
    | clear => rfl
  · exact raiseEvent_pd _ _
  · rfl

theorem completeMessage_pd (s : State) (chars : List Byte) : (completeMessage s chars).pd = s.pd := by
  unfold completeMessage
  dsimp only
  split
  · rw [raiseEvent_pd, fallAsleep_pd]
  · split
    · rw [raiseEvent_pd, fallAsleep_pd]
    · rw [acceptCue_pd, fallAsleep_pd]

theorem compareAddress_pd (s : State) (value : Byte) : (compareAddress s value).pd = s.pd := by
  unfold compareAddress
  split <;> rfl

theorem takeDataChar_pd (s : State) (value : Byte) : (takeDataChar s value).pd = s.pd := by
  unfold takeDataChar
  dsimp only
  split
  · rw [raiseEvent_pd, fallAsleep_pd]
  · split
    · exact completeMessage_pd _ _
    · rfl

theorem receiveCharacter_pd (s : State) (flag : Bool) (value : Byte) :
    (receiveCharacter s flag value).pd = s.pd := by
  have hrisen : (lineRises (seeFall s)).pd = s.pd := by rw [lineRises_pd, seeFall_pd]
  unfold receiveCharacter takeCharacter
  split
  · exact hrisen
  · exact hrisen
  · split
    · rw [compareAddress_pd, hrisen]
    · exact hrisen
  · split
    · rw [cutOffMessage, compareAddress_pd, raiseEvent_pd, fallAsleep_pd, hrisen]
    · rw [takeDataChar_pd, hrisen]

/-! ### The samples of a character (R116) -/

theorem getLsbD_charLine (flag : Bool) (value : Byte) (i : Nat) : (charLine flag value).getLsbD i =
    if i < 1 then false
    else if i - 1 < 8 then value.getLsbD (i - 1)
    else if i - 9 < 1 then flag
    else decide (i - 10 < 1) := by
  have hflag : i - 9 < 1 → (BitVec.ofBool flag).getLsbD (i - 9) = flag := fun h => by
    rw [show i - 9 = 0 by omega]
    cases flag <;> rfl
  have hzero : i < 1 → (0#1).getLsbD i = false := fun _ => BitVec.getLsbD_zero
  have hstop : (1#1).getLsbD (i - 10) = decide (i - 10 < 1) := by
    by_cases h : i - 10 < 1
    · simp [show i - 10 = 0 by omega]
    · simp [show i - 10 ≠ 0 by omega]
  have hsub : i - 1 - 8 = i - 9 := by omega
  have hsub' : i - 9 - 1 = i - 10 := by omega
  unfold charLine
  rw [BitVec.getLsbD_append, BitVec.getLsbD_append, BitVec.getLsbD_append, hsub, hsub', hstop]
  split
  · rw [hzero ‹_›]
  · split
    · rfl
    · split
      · rw [hflag ‹_›]
      · rfl

theorem charLine_samples (flag : Bool) (value : Byte) : (charLine flag value).getLsbD 0 = false ∧
    (charLine flag value).getLsbD 10 = true ∧ (charLine flag value).getLsbD 9 = flag ∧
    (charLine flag value).extractLsb' 1 8 = value := by
  refine ⟨by rw [getLsbD_charLine]; rfl, by rw [getLsbD_charLine]; rfl,
    by rw [getLsbD_charLine]; rfl, ?_⟩
  apply BitVec.eq_of_getLsbD_eq
  intro i hi
  rw [BitVec.getLsbD_extractLsb', getLsbD_charLine, if_neg (by omega), Nat.add_sub_cancel_left,
    if_pos hi, decide_eq_true hi, Bool.true_and]

/-- A character with a low start bit and a high stop bit is received. -/
theorem exec_taken {line : BitVec 11} (hstart : line.getLsbD 0 = false) (hstop : line.getLsbD 10 = true)
    (s : State) : exec (.linkCharacterTaken (.samples line)) s =
      .next (receiveCharacter (beginStep s) (line.getLsbD 9) (line.extractLsb' 1 8)) := by
  show execLinkCharacterTaken (.samples line) s = _
  simp only [execLinkCharacterTaken, hstart, hstop, Bool.false_eq_true, if_false, if_true]
  rfl

theorem exec_charLine (flag : Bool) (value : Byte) (s : State) :
    exec (.linkCharacterTaken (.samples (charLine flag value))) s =
      .next (receiveCharacter (beginStep s) flag value) := by
  obtain ⟨hstart, hstop, hflag, hvalue⟩ := charLine_samples flag value
  rw [exec_taken hstart hstop, hflag, hvalue]

theorem beginStep_of_pd {s : State} (h : s.pd = none) : beginStep s = s := by
  unfold beginStep
  rw [← h]

/-- Data characters taken one by one are received in order. -/
theorem takenOneByOne_data (chars : List Byte) {s : State} (h : s.pd = none) :
    takenOneByOne (chars.map (charLine false)) s =
      .next (chars.foldl (fun s c => receiveCharacter s false c) s) := by
  induction chars generalizing s with
  | nil => rfl
  | cons c rest ih =>
    rw [List.map_cons, takenOneByOne, exec_charLine, beginStep_of_pd h]
    exact ih ((receiveCharacter_pd s false c).trans h)

/-- A cue row is its characters taken one by one (R120). -/
theorem exec_cueMessage_chars {i : Instr} {dest kind : Byte} {due : Due} {payload : List Byte}
    {e : BitVec 16} (h : i.cueMessage? = some (dest, kind, due, payload, e)) (s : State) :
    exec i s = takenOneByOne (charLine true dest ::
      (messageChars kind due payload e).map (charLine false)) s := by
  rw [exec_cueMessage h, takenOneByOne, exec_charLine]
  exact (takenOneByOne_data _ (receiveCharacter_pd (beginStep s) true dest)).symm

/-! ### The CRC register (R121) -/

theorem crcBit_eq (register : BitVec 16) (bit : Bool) : crcBit register bit =
    if bit = register.getLsbD 15 then register <<< 1 else (register <<< 1) ^^^ 0x1021 := by
  unfold crcBit
  by_cases h : bit = register.getLsbD 15 <;> simp [h]

theorem crcOf_char (chars : List Byte) (c : Byte) : crcOf (chars ++ [c]) =
    [7, 6, 5, 4, 3, 2, 1, 0].foldl (fun (register : BitVec 16) (k : Nat) =>
      if c.getLsbD k = register.getLsbD 15 then register <<< 1
      else (register <<< 1) ^^^ 0x1021) (crcOf chars) := by
  rw [crcOf_snoc]
  simp only [crcChar, crcBit_eq, List.foldl_cons, List.foldl_nil]

end Sys2Proof.Machine
end

section
/-! PROOFS. The characters of the link, one by one: what each leaves of the receiver. -/

namespace Sys2Proof.Machine

/-! ### The fall and the start bit (R116, R117, R122) -/

theorem seeFall_eq (s : State) : seeFall s = { s with crx :=
    (if s.crx.lineLow then s.crx else { s.crx with
      lineLow := true
      divisor := if s.crx.state = .asleep then s.setup.active.general.divisor else s.crx.divisor
      timer := if s.crx.state = .awake then false else s.crx.timer }) } := by
  cases hlow : s.crx.lineLow with
  | true => exact seeFall_low hlow
  | false =>
    rw [seeFall_high hlow, Receiver.fall]
    cases hstate : s.crx.state <;> simp [hstate]

theorem fallWasNoise_asleep {s : State} (h : s.crx.state = .asleep) : fallWasNoise (seeFall s) =
    { s with crx := { s.crx with divisor := fallDivisor s, lineLow := false } } := by
  rw [seeFall_asleep h]
  simp [fallWasNoise, h]

theorem fallWasNoise_other {s : State} (h : s.crx.state ≠ .asleep) : fallWasNoise (seeFall s) =
    { s with crx := { s.crx with
      lineLow := false
      timer := if s.crx.state = .awake then true else s.crx.timer } } := by
  cases hstate : s.crx.state with
  | asleep => exact absurd hstate h
  | off =>
    rw [seeFall_deaf (Or.inl hstate)]
    simp [fallWasNoise, hstate]
  | inBreak =>
    rw [seeFall_deaf (Or.inr hstate)]
    simp [fallWasNoise, hstate]
  | awake =>
    rw [seeFall_awake hstate]
    simp [fallWasNoise, hstate]

/-! ### Characters in ASLEEP and AWAKE (R119, R120, R123) -/

theorem compareAddress_named {s : State} {value : Byte} (h : namesPart s value) :
    compareAddress s value = { s with crx := { s.crx with state := .awake, buffer := [], timer := true } } := by
  have hmatches : addressMatches s value = true := decide_eq_true h
  exact if_pos hmatches

theorem compareAddress_other {s : State} {value : Byte} (h : ¬ namesPart s value) :
    compareAddress s value = s := by
  refine if_neg fun hmatches => h ?_
  unfold addressMatches at hmatches
  have hnamed := of_decide_eq_true hmatches
  exact hnamed

theorem receiveCharacter_asleep {s : State} (h : s.crx.state = .asleep) (value : Byte) :
    receiveCharacter s true value = compareAddress
      { s with crx := { s.crx with lineLow := false, divisor := fallDivisor s } } value := by
  unfold receiveCharacter
  rw [risen_asleep h]
  unfold takeCharacter
  simp only [h, if_true]

/-- The receiver after a message that has ended with the line high: ASLEEP and empty. -/
def asleepAgain (s : State) : State :=
  { s with crx := { s.crx with state := .asleep, buffer := [], timer := false, lineLow := false } }

theorem raiseEvent_asleepAgain (s : State) (e : Event) :
    raiseEvent (asleepAgain (beginStep s)) e =
      { asleepAgain (beginStep s) with rpt := (raiseEvent s e).rpt } :=
  raiseEvent_from e rfl rfl rfl rfl

theorem receiveAddress_awake {s : State} (h : s.crx.state = .awake) (value : Byte) :
    receiveCharacter s true value = compareAddress (raiseEvent (asleepAgain s)
      ⟨.linkTruncated, 2, none, BitVec.ofNat 32 s.crx.buffer.length, value.setWidth 32,
        s.cap.count⟩) value := by
  unfold receiveCharacter
  rw [risen_awake h]
  unfold takeCharacter
  simp only [h, if_true]
  rfl

theorem receiveData_awake {s : State} (h : s.crx.state = .awake) (value : Byte) :
    receiveCharacter s false value = takeDataChar { s with crx := { s.crx with
      lineLow := false, timer := s.crx.timer && s.crx.lineLow } } value := by
  unfold receiveCharacter
  rw [risen_awake h]
  unfold takeCharacter
  simp only [h, Bool.false_eq_true, if_false]

/-- A data character whose L is out of its range ends the message (R120). -/
theorem receiveData_badLength {s : State} (h : s.crx.state = .awake) {value : Byte}
    (hsize : ((s.crx.buffer ++ [value]).getD 0 0).toNat < 2 ∨
      9 < ((s.crx.buffer ++ [value]).getD 0 0).toNat) :
    receiveCharacter s false value = raiseEvent (asleepAgain s) ⟨.linkBadCue, 1, none,
      ((s.crx.buffer ++ [value]).getD 0 0).setWidth 32, 1, s.cap.count⟩ := by
  rw [receiveData_awake h]
  exact if_pos hsize

/-- A data character that does not complete its message joins the buffer, and the timer restarts. -/
theorem receiveData_joins {s : State} (h : s.crx.state = .awake) {value : Byte}
    (hlow : 2 ≤ ((s.crx.buffer ++ [value]).getD 0 0).toNat)
    (hhigh : ((s.crx.buffer ++ [value]).getD 0 0).toNat ≤ 9)
    (hlength : (s.crx.buffer ++ [value]).length ≠ ((s.crx.buffer ++ [value]).getD 0 0).toNat + 3) :
    receiveCharacter s false value =
      { s with crx := { s.crx with buffer := s.crx.buffer ++ [value], timer := true, lineLow := false } } := by
  rw [receiveData_awake h]
  exact (if_neg (by dsimp only; omega)).trans (if_neg hlength)

theorem receiveData_completes {s : State} (h : s.crx.state = .awake) {value : Byte}
    (hlow : 2 ≤ ((s.crx.buffer ++ [value]).getD 0 0).toNat)
    (hhigh : ((s.crx.buffer ++ [value]).getD 0 0).toNat ≤ 9)
    (hlength : (s.crx.buffer ++ [value]).length = ((s.crx.buffer ++ [value]).getD 0 0).toNat + 3) :
    receiveCharacter s false value = completeMessage (asleepAgain s) (s.crx.buffer ++ [value]) := by
  rw [receiveData_awake h]
  refine ((if_neg (by dsimp only; omega)).trans (if_pos hlength)).trans ?_
  exact completeMessage_congr rfl _

/-! ### A message complete (R121, R126, R127) -/

/-- A message's checks, on the characters of the buffer: L, `size` characters of body, two of CRC. -/
theorem completeMessage_eq (s : State) {chars : List Byte} {size : Nat} (h : chars.length = size + 3) :
    completeMessage s chars =
      if (chars.getD (size + 2) 0 ++ chars.getD (size + 1) 0 : BitVec 16) ≠
          crcOf (chars.take (size + 1)) then
        raiseEvent (fallAsleep s) ⟨.linkBadCrc, 0, none,
          (chars.getD (size + 2) 0 ++ chars.getD (size + 1) 0 : BitVec 16).setWidth 32,
          (crcOf (chars.take (size + 1))).setWidth 32, s.cap.count⟩
      else
        match checkBody (fallAsleep s) (chars.getD 0 0) ((chars.take (size + 1)).drop 1) with
        | .error f => raiseEvent (fallAsleep s) ⟨.linkBadCue, f.detail, none, f.value.setWidth 32,
            BitVec.ofNat 32 f.position, s.cap.count⟩
        | .ok (cue, due) => acceptCue (fallAsleep s) cue due := by
  have hn : chars.length - 2 = size + 1 := by omega
  unfold completeMessage
  dsimp only
  rw [hn]
  rfl

theorem getD_body {chars : List Byte} {size k i : Nat} (h : k + i < size + 1) :
    ((chars.take (size + 1)).drop k).getD i 0 = chars.getD (k + i) 0 := by
  rw [List.getD_eq_getElem?_getD, List.getElem?_drop, List.getElem?_take_of_lt h,
    List.getD_eq_getElem?_getD]

/-- The sizes of the payloads by kind code (R126). -/
theorem payloadSize_eq {kind : Byte} (hlow : 1 ≤ kind.toNat) (hhigh : kind.toNat ≤ 9) :
    payloadSize kind = some ([0, 2, 2, 1, 1, 3, 0, 0, 4, 0].getD kind.toNat 0) := by
  unfold payloadSize
  generalize kind.toNat = k at hlow hhigh ⊢
  match k with
  | 1 | 2 | 3 | 4 | 5 | 6 | 7 | 8 | 9 => rfl
  | 0 => omega
  | n + 10 => omega

theorem payloadSize_unknown {kind : Byte} (h : kind.toNat = 0 ∨ 9 < kind.toNat) :
    payloadSize kind = none := by
  unfold payloadSize
  generalize kind.toNat = k at h ⊢
  match k with
  | 0 => rfl
  | 1 | 2 | 3 | 4 | 5 | 6 | 7 | 8 | 9 => omega
  | n + 10 => rfl

/-- Every known kind has its cue. -/
theorem cueOf_isSome {kind : Byte} (hlow : 1 ≤ kind.toNat) (hhigh : kind.toNat ≤ 9)
    (payload : List Byte) : ∃ cue, cueOf kind payload = some cue := by
  unfold cueOf
  dsimp only
  generalize kind.toNat = k at hlow hhigh ⊢
  match k with
  | 1 | 2 | 3 | 4 | 5 | 6 | 7 | 8 | 9 => exact ⟨_, rfl⟩
  | 0 => omega
  | n + 10 => omega

/-- The due of a due code up to 2. -/
def codeDue (code : Byte) (rest : List Byte) : Due :=
  if code.toNat = 0 then .now else if code.toNat = 1 then .atStamp (charsWord rest) else .onset

/-- The stamp characters that a due code asks for. -/
def codeStamp (code : Byte) : Nat := if code.toNat = 1 then 4 else 0

theorem dueOf_code {code : Byte} (h : code.toNat ≤ 2) (rest : List Byte) :
    dueOf code rest = some (codeDue code rest) := by
  unfold dueOf codeDue
  generalize code.toNat = k at h ⊢
  match k with
  | 0 | 1 | 2 => rfl
  | n + 3 => omega

theorem dueOf_unknown {code : Byte} (h : 2 < code.toNat) (rest : List Byte) :
    dueOf code rest = none := by
  unfold dueOf
  generalize code.toNat = k at h ⊢
  match k with
  | 0 | 1 | 2 => omega
  | n + 3 => rfl

theorem codeDue_fields (code : Byte) (rest : List Byte) :
    stampSize (codeDue code rest) = codeStamp code ∧
      payloadOf (codeDue code rest) rest = rest.drop (codeStamp code) ∧
      (codeDue code rest = .now ↔ code.toNat = 0) := by
  unfold codeDue codeStamp
  generalize code.toNat = k
  match k with
  | 0 => exact ⟨rfl, rfl, by simp⟩
  | 1 => exact ⟨rfl, rfl, by simp⟩
  | n + 2 => exact ⟨rfl, rfl, by simp⟩

theorem timebaseOrClear_iff {kind : Byte} (hhigh : kind.toNat ≤ 9) :
    kind = 8 ∨ kind = 9 ↔ 8 ≤ kind.toNat := by
  have hkind (k : Byte) : kind = k ↔ kind.toNat = k.toNat := ⟨congrArg _, BitVec.eq_of_toNat_eq⟩
  rw [hkind, hkind]
  show kind.toNat = 8 ∨ kind.toNat = 9 ↔ _
  omega

/-- The body's kind, its due code and what follows them, among the characters of the message (R120). -/
theorem body_chars {chars : List Byte} {size : Nat} (hlow : 2 ≤ size) :
    let body := (chars.take (size + 1)).drop 1
    let kind := chars.getD 1 0
    let code := chars.getD 2 0
    let rest := (chars.take (size + 1)).drop 3
    body.getD 0 0 = kind ∧ body.getD 1 0 = code ∧ body.drop 2 = rest := by
  exact ⟨getD_body (k := 1) (i := 0) (by omega), getD_body (k := 1) (i := 1) (by omega),
    List.drop_drop⟩

/-- The due of a message by its characters (R120). -/
theorem codeDue_byCharacters {chars : List Byte} {size : Nat} {code : Byte}
    (hsize : code.toNat = 1 → 6 ≤ size) : codeDue code ((chars.take (size + 1)).drop 3) =
      if code.toNat = 0 then .now
      else if code.toNat = 1 then
        .atStamp (chars.getD 6 0 ++ chars.getD 5 0 ++ chars.getD 4 0 ++ chars.getD 3 0)
      else .onset := by
  by_cases hstamped : code.toNat = 1
  · have hsix := hsize hstamped
    rw [codeDue, charsWord, getD_body (by omega), getD_body (by omega), getD_body (by omega),
      getD_body (by omega)]
  · rw [codeDue, if_neg hstamped, if_neg hstamped]

/-- The checks of a body in their order, by the characters of its message (R126): what holds of the outcome
holds of the first check's fault that fails, or of the cue and due of a message that passes them all. -/
theorem checkBody_byCharacters {s : State} {chars : List Byte} {size : Nat} (hlow : 2 ≤ size)
    (hlength : (chars.getD 0 0).toNat = size) {outcome : Except BodyFault (Cue × Due) → Prop}
    (houtcome : outcome (checkBody s (chars.getD 0 0) ((chars.take (size + 1)).drop 1))) :
    let kind := chars.getD 1 0
    let code := chars.getD 2 0
    let stampChars := codeStamp code
    let payload := (chars.take (size + 1)).drop (3 + stampChars)
    let payloadChars := [0, 2, 2, 1, 1, 3, 0, 0, 4, 0].getD kind.toNat 0
    let bad (detail x : Byte) (place : Nat) : Prop := outcome (.error ⟨detail, x, place⟩)
    (kind.toNat = 0 ∨ 9 < kind.toNat → bad 2 kind 2) ∧
    (1 ≤ kind.toNat → kind.toNat ≤ 9 →
      (2 < code.toNat → bad 3 code 3) ∧
      (code.toNat ≤ 2 →
        (size ≠ 2 + stampChars + payloadChars → bad 1 (chars.getD 0 0) 1) ∧
        (size = 2 + stampChars + payloadChars →
          (8 ≤ kind.toNat → code.toNat ≠ 0 → bad 4 kind 2) ∧
          (kind.toNat ≤ 7 ∨ code.toNat = 0 →
            (∀ k, ¬ payloadLegal kind payload k → (∀ m < k, payloadLegal kind payload m) →
              bad 5 (payload.getD k 0) (4 + stampChars + k)) ∧
            ((∀ k, payloadLegal kind payload k) →
              (¬ shapeDefined s kind payload → bad 6 (payload.getD 1 0) (5 + stampChars)) ∧
              (shapeDefined s kind payload → ∃ cue, cueOf kind payload = some cue ∧
                outcome (.ok (cue, if code.toNat = 0 then .now
                  else if code.toNat = 1 then
                    .atStamp (chars.getD 6 0 ++ chars.getD 5 0 ++ chars.getD 4 0 ++ chars.getD 3 0)
                  else .onset)))))))) := by
  intro kind code stampChars payload payloadChars bad
  obtain ⟨hkind, hcode, hrest⟩ := body_chars (chars := chars) hlow
  have hresult {r : Except BodyFault (Cue × Due)}
      (hbody : checkBody s (chars.getD 0 0) ((chars.take (size + 1)).drop 1) = r) : outcome r :=
    hbody ▸ houtcome
  refine ⟨fun hunknown => ?_, fun hkindLow hkindHigh => ?_⟩
  · have hchecked := hresult (checkBody_kind (by rw [hkind]; exact payloadSize_unknown hunknown))
    rw [hkind] at hchecked
    exact hchecked
  have hsize : payloadSize (((chars.take (size + 1)).drop 1).getD 0 0) = some payloadChars := by
    rw [hkind]
    exact payloadSize_eq hkindLow hkindHigh
  refine ⟨fun hunknown => ?_, fun hknown => ?_⟩
  · have hchecked := hresult (checkBody_code hsize (by rw [hcode]; exact dueOf_unknown hunknown _))
    rw [hcode] at hchecked
    exact hchecked
  generalize hdueOf : codeDue code ((chars.take (size + 1)).drop 3) = due
  have hdue : dueOf (((chars.take (size + 1)).drop 1).getD 1 0)
      (((chars.take (size + 1)).drop 1).drop 2) = some due := by
    rw [hcode, hrest, ← hdueOf]
    exact dueOf_code hknown _
  obtain ⟨hstamp, hpayload, hnow⟩ := codeDue_fields code ((chars.take (size + 1)).drop 3)
  rw [hdueOf] at hstamp hpayload hnow
  have hpayload' : payloadOf due (((chars.take (size + 1)).drop 1).drop 2) = payload := by
    rw [hrest, hpayload, List.drop_drop]
  refine ⟨fun hwrong => ?_, fun hright => ?_⟩
  · exact hresult (checkBody_length hsize hdue (by rw [hstamp, hlength]; exact hwrong))
  have hsized : (chars.getD 0 0).toNat = 2 + stampSize due + payloadChars := by
    rw [hstamp, hlength]
    exact hright
  refine ⟨fun hkind8 hcode0 => ?_, fun hlistable => ?_⟩
  · have hchecked := hresult (checkBody_notNow hsize hdue hsized
      ⟨by rw [hkind]; exact (timebaseOrClear_iff hkindHigh).mpr hkind8, fun h => hcode0 (hnow.mp h)⟩)
    rw [hkind] at hchecked
    exact hchecked
  have hpassed := checkBody_payload (s := s) (length := chars.getD 0 0) hsize hdue hsized (by
    rw [hkind]
    rintro ⟨hkind8, hcode0⟩
    have hkind8 := (timebaseOrClear_iff hkindHigh).mp hkind8
    exact hlistable.elim (fun h => by omega) fun h => hcode0 (hnow.mpr h))
  rw [hkind, hpayload'] at hpassed
  refine ⟨fun k hillegal hbefore => ?_, fun hlegal => ⟨fun hundefined => ?_, fun hdefined => ?_⟩⟩
  · have hchecked := hresult (hpassed.trans (checkPayload_fault hillegal hbefore))
    rw [hstamp] at hchecked
    exact hchecked
  · have hchecked := hresult (hpassed.trans (checkPayload_shape (s := s) hlegal hundefined))
    rw [hstamp, Nat.add_right_comm 4 (codeStamp code) 1] at hchecked
    exact hchecked
  · obtain ⟨cue, hcue⟩ := cueOf_isSome hkindLow hkindHigh payload
    have hsix : code.toNat = 1 → 6 ≤ size := fun hstamped => by
      have hfour : stampChars = 4 := if_pos hstamped
      omega
    have hchecked := hresult (hpassed.trans (checkPayload_passes (s := s) hlegal hdefined hcue))
    rw [← hdueOf, codeDue_byCharacters hsix] at hchecked
    exact ⟨cue, hcue, hchecked⟩

/-- Settles O50. -/
theorem linkCharacters : Obligations.LinkCharacters := by
  refine ⟨fun s line => ?_, ⟨rfl, crcOf_char⟩, fun i dest kind due payload e s hmessage =>
    exec_cueMessage_chars hmessage s⟩
  intro value after asleep fails takes rated
  have hreceives (t : State)
      (h : receiveCharacter (beginStep s) (line.getLsbD 9) value = t) : takes t :=
    fun hstart hstop => (exec_taken hstart hstop s).trans (congrArg Host.Outcome.next h)
  have hfails (x : Event) : raiseEvent (asleepAgain (beginStep s)) x = fails x :=
    raiseEvent_asleepAgain s x
  have hfall : exec (.linkCharacterTaken .fall) s = .next (seeFall (beginStep s)) := rfl
  refine ⟨?_, fun hnoise => ?_, fun hstart hstop => ?_, fun hdeaf => ?_, fun hasleep => ⟨fun hflag hnamed => ?_,
    fun hflag hother => ?_, fun hflag => ?_⟩, fun hawake hflag => ⟨fun hnamed => ?_, fun hother => ?_⟩,
    fun hawake hflag => ?_⟩
  · rw [hfall, seeFall_eq]
    rfl
  · show execLinkCharacterTaken (.samples line) s = _
    simp only [execLinkCharacterTaken, hnoise, if_true]
    by_cases hasleep : s.crx.state = .asleep
    · rw [fallWasNoise_asleep (s := beginStep s) hasleep, if_pos hasleep]
      rfl
    · rw [fallWasNoise_other (s := beginStep s) hasleep, if_neg hasleep]
      rfl
  · show execLinkCharacterTaken (.samples line) s = _
    simp only [execLinkCharacterTaken, hstart, hstop, Bool.false_eq_true, if_false]
    rfl
  · exact hreceives _ (receiveCharacter_deaf (s := beginStep s) hdeaf _ _)
  · refine hreceives _ ?_
    rw [hflag, receiveCharacter_asleep (s := beginStep s) hasleep]
    exact compareAddress_named hnamed
  · refine hreceives _ ?_
    rw [hflag, receiveCharacter_asleep (s := beginStep s) hasleep]
    exact compareAddress_other hother
  · refine hreceives _ ?_
    rw [hflag]
    exact receiveData_asleep (s := beginStep s) hasleep value
  · refine hreceives _ ?_
    rw [hflag, receiveAddress_awake (s := beginStep s) hawake]
    refine (congrArg (compareAddress · value) (hfails _)).trans ?_
    exact compareAddress_named hnamed
  · refine hreceives _ ?_
    rw [hflag, receiveAddress_awake (s := beginStep s) hawake]
    refine (congrArg (compareAddress · value) (hfails _)).trans ?_
    exact compareAddress_other hother
  · intro chars size bad
    refine ⟨fun hsize => ?_, fun hlow hhigh hlength => ?_, fun hlow hhigh hlength => ?_⟩
    · refine hreceives _ ?_
      rw [hflag, receiveData_badLength (s := beginStep s) hawake hsize]
      exact hfails _
    · refine hreceives _ ?_
      rw [hflag]
      exact receiveData_joins (s := beginStep s) hawake hlow hhigh hlength
    · intro received computed kind code stampChars payload payloadChars
      have hcomplete : receiveCharacter (beginStep s) (line.getLsbD 9) value =
          completeMessage (asleepAgain (beginStep s)) chars := by
        rw [hflag]
        exact receiveData_completes (s := beginStep s) hawake hlow hhigh hlength
      rw [completeMessage_eq _ hlength] at hcomplete
      refine ⟨fun hcrc => ?_, fun hcrc => ?_⟩
      · refine hreceives _ (hcomplete.trans ?_)
        rw [if_pos hcrc]
        exact hfails _
      rw [if_neg (not_not_intro hcrc)] at hcomplete
      have hchecks := checkBody_byCharacters (s := asleepAgain (beginStep s)) (chars := chars) hlow rfl
        (outcome := fun r => takes (match r with
          | .error f => fails ⟨.linkBadCue, f.detail, none, f.value.setWidth 32,
              BitVec.ofNat 32 f.position, s.cap.count⟩
          | .ok (cue, due) => acceptCue (asleepAgain (beginStep s)) cue due))
        (hreceives _ (hcomplete.trans ?_))
      · exact hchecks
      · rw [show fallAsleep (asleepAgain (beginStep s)) = asleepAgain (beginStep s) from rfl]
        generalize checkBody (asleepAgain (beginStep s)) (chars.getD 0 0)
          ((chars.take ((chars.getD 0 0).toNat + 1)).drop 1) = checked
        cases checked with
        | error f => exact hfails _
        | ok accepted => rfl

end Sys2Proof.Machine
end

section
/-! PROOFS. The status words and the reads that return them. -/

namespace Sys2Proof.Machine

/-! ### The bits of a word put together from fields -/

/-- The field that stands lowest in a word. -/
theorem extractLsb'_append_low {m n : Nat} (x : BitVec m) (y : BitVec n) :
    (x ++ y).extractLsb' 0 n = y := by
  rw [BitVec.extractLsb'_append_eq_of_add_le (by omega), BitVec.extractLsb'_eq_self]

/-- Taking from above the lowest field leaves that field out. -/
theorem extractLsb'_append_high {m n : Nat} (x : BitVec m) (y : BitVec n) (start len : Nat) :
    (x ++ y).extractLsb' (n + start) len = x.extractLsb' start len := by
  rw [BitVec.extractLsb'_append_eq_of_le (by omega), Nat.add_sub_cancel_left]

/-- A bit above the lowest field. -/
theorem getLsbD_append_high {m n : Nat} (x : BitVec m) (y : BitVec n) (i : Nat) :
    (x ++ y).getLsbD (n + i) = x.getLsbD i := by
  rw [BitVec.getLsbD_append, if_neg (by omega), Nat.add_sub_cancel_left]

/-- The lowest field, where it is one bit. -/
theorem getLsbD_append_ofBool {m : Nat} (x : BitVec m) (b : Bool) :
    (x ++ BitVec.ofBool b).getLsbD 0 = b := by
  rw [BitVec.getLsbD_append, if_pos (by omega), BitVec.getLsbD_ofBool]
  simp

/-- The bits of the voice status word (section 11.4). -/
theorem voiceStatusWord_bits (r : VoiceRecord) :
    (voiceStatusWord r).extractLsb' 0 3 = r.state.code ∧
    (voiceStatusWord r).extractLsb' 3 5 = 0 ∧
    (voiceStatusWord r).extractLsb' 8 8 = noteField (r.target.map (·.note)) ∧
    (voiceStatusWord r).extractLsb' 16 13 = BitVec.ofInt 13 r.current ∧
    (voiceStatusWord r).getLsbD 29 = r.xfade.isSome ∧
    (voiceStatusWord r).getLsbD 30 = r.clipped ∧
    (voiceStatusWord r).getLsbD 31 = r.targetChanged := by
  unfold voiceStatusWord
  refine ⟨extractLsb'_append_low _ _, ?_, ?_, ?_, ?_, ?_, ?_⟩
  · rw [extractLsb'_append_high _ _ 0]
    exact extractLsb'_append_low _ _
  · rw [extractLsb'_append_high _ _ 5, extractLsb'_append_high _ _ 0]
    exact extractLsb'_append_low _ _
  · rw [extractLsb'_append_high _ _ 13, extractLsb'_append_high _ _ 8,
      extractLsb'_append_high _ _ 0]
    exact extractLsb'_append_low _ _
  · rw [getLsbD_append_high _ _ 26, getLsbD_append_high _ _ 21, getLsbD_append_high _ _ 13,
      getLsbD_append_high _ _ 0]
    exact getLsbD_append_ofBool _ _
  · rw [getLsbD_append_high _ _ 27, getLsbD_append_high _ _ 22, getLsbD_append_high _ _ 14,
      getLsbD_append_high _ _ 1, getLsbD_append_high _ _ 0]
    exact getLsbD_append_ofBool _ _
  · rw [getLsbD_append_high _ _ 28, getLsbD_append_high _ _ 23, getLsbD_append_high _ _ 15,
      getLsbD_append_high _ _ 2, getLsbD_append_high _ _ 1, getLsbD_append_high _ _ 0]
    rw [BitVec.getLsbD_ofBool]
    simp

/-- The bits of the tracker status word (section 11.4). -/
theorem trackerStatusWord_bits (t : Tracker) :
    (trackerStatusWord t).extractLsb' 0 8 = noteField t.sung ∧
    (trackerStatusWord t).getLsbD 8 = (t.history.head?.map (·.voiced)).getD false ∧
    (trackerStatusWord t).extractLsb' 9 7 = 0 ∧
    (trackerStatusWord t).extractLsb' 16 8 =
      BitVec.ofNat 8 ((t.history.head?.map (·.confidence)).getD 0) ∧
    (trackerStatusWord t).extractLsb' 24 5 =
      BitVec.ofNat 5 ((t.history.head?.map (·.headroom)).getD 23) ∧
    (trackerStatusWord t).getLsbD 29 = false ∧
    (trackerStatusWord t).getLsbD 30 = t.newRecord ∧
    (trackerStatusWord t).getLsbD 31 = t.skipped := by
  unfold trackerStatusWord
  refine ⟨extractLsb'_append_low _ _, ?_, ?_, ?_, ?_, ?_, ?_, ?_⟩
  · rw [getLsbD_append_high _ _ 0]
    exact getLsbD_append_ofBool _ _
  · rw [extractLsb'_append_high _ _ 1, extractLsb'_append_high _ _ 0]
    exact extractLsb'_append_low _ _
  · rw [extractLsb'_append_high _ _ 8, extractLsb'_append_high _ _ 7,
      extractLsb'_append_high _ _ 0]
    exact extractLsb'_append_low _ _
  · rw [extractLsb'_append_high _ _ 16, extractLsb'_append_high _ _ 15,
      extractLsb'_append_high _ _ 8, extractLsb'_append_high _ _ 0]
    exact extractLsb'_append_low _ _
  · rw [getLsbD_append_high _ _ 21, getLsbD_append_high _ _ 20, getLsbD_append_high _ _ 13,
      getLsbD_append_high _ _ 5, getLsbD_append_high _ _ 0]
    exact getLsbD_append_ofBool _ false
  · rw [getLsbD_append_high _ _ 22, getLsbD_append_high _ _ 21, getLsbD_append_high _ _ 14,
      getLsbD_append_high _ _ 6, getLsbD_append_high _ _ 1, getLsbD_append_high _ _ 0]
    exact getLsbD_append_ofBool _ _
  · rw [getLsbD_append_high _ _ 23, getLsbD_append_high _ _ 22, getLsbD_append_high _ _ 15,
      getLsbD_append_high _ _ 7, getLsbD_append_high _ _ 2, getLsbD_append_high _ _ 1,
      getLsbD_append_high _ _ 0]
    rw [BitVec.getLsbD_ofBool]
    simp

/-- The bits of the latest-record word (section 11.4). -/
theorem latestRecordWord_bits (t : Tracker) :
    (latestRecordWord t).extractLsb' 0 14 =
      BitVec.ofNat 14 ((t.history.head?.bind (·.pitch)).getD 0) ∧
    (latestRecordWord t).getLsbD 14 = (t.history.head?.bind (·.pitch)).isSome ∧
    (latestRecordWord t).extractLsb' 15 15 =
      BitVec.ofNat 15 ((t.history.head?.bind (·.period)).getD 0) ∧
    (latestRecordWord t).getLsbD 30 = (t.history.head?.bind (·.period)).isSome ∧
    (latestRecordWord t).getLsbD 31 = false := by
  unfold latestRecordWord
  refine ⟨extractLsb'_append_low _ _, ?_, ?_, ?_, ?_⟩
  · rw [getLsbD_append_high _ _ 0]
    exact getLsbD_append_ofBool _ _
  · rw [extractLsb'_append_high _ _ 1, extractLsb'_append_high _ _ 0]
    exact extractLsb'_append_low _ _
  · rw [getLsbD_append_high _ _ 16, getLsbD_append_high _ _ 15, getLsbD_append_high _ _ 0]
    exact getLsbD_append_ofBool _ _
  · rw [getLsbD_append_high _ _ 17, getLsbD_append_high _ _ 16, getLsbD_append_high _ _ 1,
      getLsbD_append_high _ _ 0]
    rfl

/-- The mix status word holds its flag alone (R108). -/
theorem mixStatusWord_eq (b : Bool) :
    (BitVec.ofBool b).setWidth 32 = (if b then 1 else 0 : Word) := by
  cases b <;> rfl

theorem noteField_eq (target : Option Target) :
    noteField (target.map (·.note)) =
      (match target with
        | none => (255 : BitVec 8)
        | some x => BitVec.ofNat 8 x.note) := by
  cases target <;> rfl

theorem noteField_match (note : Option Nat) :
    noteField note =
      (match note with
        | none => (255 : BitVec 8)
        | some n => BitVec.ofNat 8 n) := by
  cases note <;> rfl

/-! ### A tap read at a free port -/

/-- A tap read at a free port is taken by its offset (R102, R138). -/
theorem tapRead_free {s : State} {a : Addr} {n : Nat} (hfree : portFree s)
    (hplace : classify s a = some (.tap, n)) :
    processorReadCycle a s = .next (grant (takeTap (beginStep s) a n)) := by
  have hread : presentRead (beginStep s) a = takeTap (beginStep s) a n := by
    unfold presentRead
    rw [classify_beginStep, hplace]
  rw [processorReadCycle_free hfree, hread]

/-- Every tap read row is that one cycle. -/
theorem exec_tapReads {s : State} {a : Addr} {n : Nat} (hfree : portFree s)
    (hplace : classify s a = some (.tap, n)) :
    exec (.voiceStatusRead a) s = .next (grant (takeTap (beginStep s) a n)) ∧
    exec (.trackerStatusRead a) s = .next (grant (takeTap (beginStep s) a n)) ∧
    exec (.mixStatusRead a) s = .next (grant (takeTap (beginStep s) a n)) ∧
    exec (.processorRead a) s = .next (grant (takeTap (beginStep s) a n)) :=
  have hread := tapRead_free hfree hplace
  ⟨hread, hread, hread, hread⟩

/-- A read whose word is known at once leaves that word, and no cycle held. -/
theorem endCycle_beginStep {s : State} (hcycle : s.bus.cycle = none) (w : Word) :
    endCycle (beginStep s) (some w) = { s with pd := some w } := by
  have hbegun : (beginStep s).bus.cycle = none := hcycle
  change { releaseCycle (beginStep s) with pd := some w } = _
  rw [releaseCycle_of_none hbegun]
  rfl

theorem takeTap_status (s : State) (a : Addr) {n : Nat} (h : 10 ≤ n) :
    takeTap s a n = statusRead s n := by
  unfold takeTap
  rw [if_pos h]

/-- The status read of a voice (R74). -/
theorem statusRead_voice (s : State) (v : Fin 4) :
    statusRead s (12 + v.val) =
      clearVoiceFlags (endCycle s (some (voiceStatusWord (voiceOf s v)))) v := by
  match v with
  | 0 => rfl
  | 1 => rfl
  | 2 => rfl
  | 3 => rfl

/-- The offsets that hold nothing read as zero (R102). -/
theorem statusRead_other (s : State) {n : Nat} (h : n = 10 ∨ n = 11 ∨ 21 ≤ n) :
    statusRead s n = endCycle s (some 0) := by
  rcases h with rfl | rfl | h
  · rfl
  · rfl
  · obtain ⟨k, rfl⟩ := Nat.exists_eq_add_of_le' h
    rfl

/-- Settles O52: each status read returns its word's bits, and clears the flags that word carries and
nothing else. -/
theorem statusReads : Obligations.StatusReads := by
  intro s a hfree
  have hcycle := endCycle_beginStep hfree.1
  refine ⟨fun v hplace => ?_, fun hplace => ?_, fun hplace => ?_, fun hplace => ?_,
    fun hplace => ?_, fun hplace => ?_, fun n hplace hn => ?_⟩
  · obtain ⟨hstate, hzero, hnote, hshift, hxfade, hclipped, hchanged⟩ :=
      voiceStatusWord_bits (voiceOf s v)
    refine ⟨_, voiceStatusWord (voiceOf s v), (exec_tapReads hfree hplace).1, ?_, hstate, hzero,
      hnote.trans (noteField_eq _), hshift, hxfade, hclipped, hchanged⟩
    rw [takeTap_status _ _ (by omega), statusRead_voice]
    rw [show voiceOf (beginStep s) v = voiceOf s v from rfl, hcycle]
    rfl
  · obtain ⟨hsung, hvoiced, hzero, hconfidence, hheadroom, hclear, hnew, hskipped⟩ :=
      trackerStatusWord_bits s.trk
    refine ⟨_, trackerStatusWord s.trk, (exec_tapReads hfree hplace).2.1, ?_,
      hsung.trans (noteField_match _), hzero, hclear,
      hnew, hskipped, fun hempty => ?_, fun x rest hlatest => ?_⟩
    · rw [takeTap_status _ _ (by omega)]
      change grant (clearTrackerFlags (endCycle (beginStep s) (some (trackerStatusWord s.trk)))) = _
      rw [hcycle]
      rfl
    · rw [hvoiced, hconfidence, hheadroom, hempty]
      exact ⟨rfl, rfl, rfl⟩
    · rw [hvoiced, hconfidence, hheadroom, hlatest]
      exact ⟨rfl, rfl, rfl⟩
  · rw [(exec_tapReads hfree hplace).2.2.1, takeTap_status _ _ (by omega)]
    change Host.Outcome.next (grant (clearMixFlag (endCycle (beginStep s)
      (some ((BitVec.ofBool s.vce.mixClipped).setWidth 32))))) = _
    rw [hcycle, mixStatusWord_eq]
    rfl
  · obtain ⟨hpitch, hpitched, hperiod, hperiodic, hclear⟩ := latestRecordWord_bits s.trk
    refine ⟨latestRecordWord s.trk, ?_, hclear, fun pitch hp => ?_, fun period hp => ?_⟩
    · rw [(exec_tapReads hfree hplace).2.2.2, takeTap_status _ _ (by omega)]
      exact congrArg (fun t => Host.Outcome.next (grant t)) (hcycle _)
    · rw [hpitched, hpitch, hp]
      exact ⟨rfl, rfl⟩
    · rw [hperiodic, hperiod, hp]
      exact ⟨rfl, rfl⟩
  · rw [(exec_tapReads hfree hplace).2.2.2, takeTap_status _ _ (by omega)]
    exact congrArg (fun t => Host.Outcome.next (grant t)) (hcycle _)
  · rw [(exec_tapReads hfree hplace).2.2.2, takeTap_status _ _ (by omega)]
    exact congrArg (fun t => Host.Outcome.next (grant t)) (hcycle _)
  · rw [(exec_tapReads hfree hplace).2.2.2, takeTap_status _ _ (by omega), statusRead_other _ hn]
    exact congrArg (fun t => Host.Outcome.next (grant t)) (hcycle 0)

end Sys2Proof.Machine
end

section
/-! PROOFS. A captured write: its positions, its hops, its advance of the count, and the entry tests. -/

namespace Sys2Proof.Machine

/-! ### The entry tests (R63) -/

/-- The entry tests take each voice's record by itself. -/
theorem entryTests_eq (s : State) : entryTests s = mapVoices s fun _ r => entryTest s r := rfl

theorem entryTests_frame (s : State) :
    entryTests s = { s with vce := { s.vce with voices := (entryTests s).vce.voices } } := by
  have h := mapVoices_frame s fun _ r => entryTest s r
  rw [← entryTests_eq] at h
  exact h

theorem voiceOf_entryTests (s : State) (v : Fin 4) :
    voiceOf (entryTests s) v = entryTest s (voiceOf s v) := by
  rw [entryTests_eq, voiceOf_mapVoices]

/-- A voice that is not PARKED with a target, or finds the fill short, does not enter. -/
theorem entryTest_unchanged {s : State} {r : VoiceRecord}
    (h : r.state ≠ .parked ∨ r.target = none ∨
      s.cap.fill < s.setup.active.general.lagCenter.toNat + 2) : entryTest s r = r := by
  unfold entryTest
  split
  · rfl
  · rename_i t htarget
    have hfails : entryPasses s r = false := by
      rcases h with h | h | h
      · simp [entryPasses, h]
      · simp [htarget] at h
      · simp only [entryPasses, Bool.and_eq_false_iff, decide_eq_false_iff_not]
        omega
    rw [hfails]
    rfl

/-! ### Positions placed (R2 to R4, R7, R15) -/

theorem Tracker.hop_idle {t : Tracker} (h : t.inFlight = none) (g : General) (stamp : Word) :
    t.hop g stamp =
      { t with inFlight := some ⟨t.buffer, stamp, t.generation, analysisParams g⟩ } := by
  unfold Tracker.hop
  split
  · rfl
  · rename_i x hx
    simp [h] at hx

theorem Tracker.hop_busy {t : Tracker} (h : t.inFlight ≠ none) (g : General) (stamp : Word) :
    t.hop g stamp = { t with skipped := true } := by
  unfold Tracker.hop
  split
  · contradiction
  · rfl

/-- A position hands its sample over and raises C and the fill; hops aside, nothing else changes. -/
theorem placePosition_frame (s : State) (x : Sample) (stamp : Word) : placePosition s x stamp =
    { s with
      trk := (placePosition s x stamp).trk
      cap := { s.cap with c := s.cap.c + 1, fill := min 65536 (s.cap.fill + 1) }
      rpt := { s.rpt with hopCounter := (placePosition s x stamp).rpt.hopCounter } } := by
  unfold placePosition
  split <;> rfl

/-- A hop rewrites no sample and no history. -/
theorem placePosition_tracker (s : State) (x : Sample) (stamp : Word) :
    (placePosition s x stamp).trk.buffer = (x :: s.trk.buffer).take 2048 ∧
    (placePosition s x stamp).trk.history = s.trk.history ∧
    (placePosition s x stamp).trk.sung = s.trk.sung := by
  unfold placePosition
  split
  · unfold hopBoundary Tracker.hop
    dsimp only
    split <;> exact ⟨rfl, rfl, rfl⟩
  · exact ⟨rfl, rfl, rfl⟩

/-- The first position completes no hop (R7). -/
theorem placePosition_first {s : State} (hc : s.cap.c = 0) (x : Sample) (stamp : Word) :
    placePosition s x stamp = placeSample s x := by
  have hearly : atHopBoundary (placeSample s x) = false := by
    have hone : (placeSample s x).cap.c = 1 := by
      change s.cap.c + 1 = 1
      rw [hc]
      rfl
    have hshort : ¬ ((placeSample s x).cap.c.toNat % Config.hopSize = 0 ∧
        Config.frameSize ≤ (placeSample s x).cap.fill) := fun h => by
      rw [hone] at h
      exact absurd h.1 (by decide)
    exact decide_eq_false hshort
  unfold placePosition
  rw [hearly]
  rfl

/-- What placing positions leaves: the tracker and the hop counter apart, C and the fill. -/
structure Placed (n : Nat) (s t : State) : Prop where
  frame : t = { s with
    trk := t.trk
    cap := { s.cap with c := s.cap.c + BitVec.ofNat 32 n, fill := t.cap.fill }
    rpt := { s.rpt with hopCounter := t.rpt.hopCounter } }
  fill : t.cap.fill = if n = 0 then s.cap.fill else min 65536 (s.cap.fill + n)
  history : t.trk.history = s.trk.history
  sung : t.trk.sung = s.trk.sung

theorem Placed.none (s : State) : Placed 0 s s := by
  refine ⟨?_, rfl, rfl, rfl⟩
  rw [show s.cap.c + BitVec.ofNat 32 0 = s.cap.c from BitVec.add_zero _]

theorem Placed.step {n : Nat} {s t : State} {x : Sample} {stamp : Word}
    (h : Placed n (placePosition s x stamp) t) : Placed (n + 1) s t := by
  obtain ⟨hframe, hfill, hhistory, hsung⟩ := h
  obtain ⟨_, hhistory', hsung'⟩ := placePosition_tracker s x stamp
  have hsum : s.cap.c + 1 + BitVec.ofNat 32 n = s.cap.c + BitVec.ofNat 32 (n + 1) := by
    rw [Nat.add_comm n 1, BitVec.ofNat_add, BitVec.add_assoc]
    rfl
  refine ⟨?_, ?_, hhistory.trans hhistory', hsung.trans hsung'⟩
  · rw [placePosition_frame] at hframe
    rw [← hsum]
    exact hframe
  · rw [placePosition_frame] at hfill
    rw [hfill, if_neg (Nat.succ_ne_zero n)]
    change (if n = 0 then min 65536 (s.cap.fill + 1) else
      min 65536 (min 65536 (s.cap.fill + 1) + n)) = _
    split <;> omega

theorem placePositions_placed (xs : List Sample) (stamp : Word) (s : State) :
    Placed xs.length s (placePositions xs stamp s) := by
  induction xs generalizing stamp s with
  | nil => exact Placed.none s
  | cons x rest ih => exact (ih (stamp + 1) (placePosition s x stamp)).step

theorem placePositions_buffer (x : Sample) (xs : List Sample) (stamp : Word) (s : State) :
    (placePositions (x :: xs) stamp s).trk.buffer =
      ((x :: xs).reverse ++ s.trk.buffer).take 2048 := by
  induction xs generalizing x stamp s with
  | nil => exact (placePosition_tracker s x stamp).1
  | cons y rest ih =>
    change (placePositions (y :: rest) (stamp + 1) (placePosition s x stamp)).trk.buffer = _
    rw [ih, (placePosition_tracker s x stamp).1, List.reverse_cons (a := x), List.append_assoc,
      List.take_append, List.take_append, List.take_take, Nat.min_eq_left (by omega)]
    rfl

/-- The head of the positions still to place, hop by hop (R7, R16, R177). -/
theorem placePositions_cases (u : State) (x : Sample) (more : List Sample) (stamp : Word) :
    let g := u.setup.active.general
    let buffer := (x :: u.trk.buffer).take 2048
    let placed : State := { u with
      trk := { u.trk with buffer := buffer }
      cap := { u.cap with c := u.cap.c + 1, fill := min 65536 (u.cap.fill + 1) } }
    let hop : Prop := (u.cap.c + 1).toNat % 256 = 0 ∧ 2048 ≤ u.cap.fill + 1
    let noted (t : Tracker) : State :=
      { placed with trk := t, rpt := { u.rpt with hopCounter := u.rpt.hopCounter + 1 } }
    (¬ hop → placePositions (x :: more) stamp u = placePositions more (stamp + 1) placed) ∧
    (hop →
      (u.trk.inFlight = none → placePositions (x :: more) stamp u =
        placePositions more (stamp + 1) (noted { u.trk with
          buffer := buffer,
          inFlight := some ⟨buffer, stamp, u.trk.generation,
            ⟨g.tmin.toNat, g.tmax.toNat, g.diffThreshold.toNat, g.voicing.toNat,
              g.silence.toNat, g.sampleRate.toNat, g.tuning.toInt⟩⟩ })) ∧
      (u.trk.inFlight ≠ none → placePositions (x :: more) stamp u =
        placePositions more (stamp + 1)
          (noted { u.trk with buffer := buffer, skipped := true }))) := by
  intro g buffer placed hop noted
  have hhop : atHopBoundary (placeSample u x) = true ↔ hop := by
    unfold atHopBoundary
    rw [decide_eq_true_iff]
    change (u.cap.c + 1).toNat % 256 = 0 ∧ 2048 ≤ min 65536 (u.cap.fill + 1) ↔
      (u.cap.c + 1).toNat % 256 = 0 ∧ 2048 ≤ u.cap.fill + 1
    omega
  have hstep : placePositions (x :: more) stamp u =
      placePositions more (stamp + 1) (placePosition u x stamp) := rfl
  refine ⟨fun hno => ?_, fun hyes => ?_⟩
  · rw [hstep, placePosition, if_neg fun h => hno (hhop.mp h)]
    rfl
  · have hnoted : placePosition u x stamp = hopBoundary (placeSample u x) stamp := by
      rw [placePosition, if_pos (hhop.mpr hyes)]
    rw [hstep, hnoted]
    refine ⟨fun hidle => ?_, fun hbusy => ?_⟩
    · unfold hopBoundary
      rw [Tracker.hop_idle (t := (placeSample u x).trk) hidle]
      rfl
    · unfold hopBoundary
      rw [Tracker.hop_busy (t := (placeSample u x).trk) hbusy]
      rfl

/-! ### An advance of the count (R9, R131) -/

theorem executeDue_nil (s : State) : executeDue [] s = { s with csc := { s.csc with atList := [] } } := rfl

theorem executeDue_cons (s : State) (e : AtEntry) (rest : List AtEntry) :
    let due : Prop :=
      (e.stamp - s.cap.count).toNat = 0 ∨ 2147483648 ≤ (e.stamp - s.cap.count).toNat
    (due → executeDue (e :: rest) s = executeDue rest
      (executeMusical false e.cue { s with csc := { s.csc with atList := rest } })) ∧
    (¬ due → executeDue (e :: rest) s = { s with csc := { s.csc with atList := e :: rest } }) := by
  intro due
  have hdue := isDue_iff s.cap.count e.stamp
  refine ⟨fun h => ?_, fun h => ?_⟩
  · rw [executeDue, if_pos (hdue.mpr h)]
    rfl
  · rw [executeDue, if_neg fun h' => h (hdue.mp h')]
    rfl

/-- The advance of a write that placed positions is the advance of the list as it stood. -/
theorem advanceCount_placed {n : Nat} {u t : State} (h : Placed n u t) (count : Nat) :
    advanceCount t count = executeDue u.csc.atList
      { t with cap := { t.cap with count := u.cap.count + BitVec.ofNat 32 count } } := by
  have hlist : t.csc = u.csc := by rw [h.frame]
  have hcount : t.cap.count = u.cap.count := by rw [h.frame]
  unfold advanceCount
  rw [hlist, hcount]

/-! ### A captured write (R2 to R6) -/

/-- A capture at a free port with room: posted, then offered to the Capture Unit. -/
theorem exec_capture {s : State} {a : Addr} {d : Word} {slot : Nat} (hfree : portFree s)
    (hroom : hasRoom s) (hrunning : s.setup.engine = .running)
    (hplace : classify s a = some (.input, slot)) :
    exec (.capture a d) s = .next (grant (captureWrite (postWrite (beginStep s) a d) a slot
      (inputSize s) (sampleOf (inputFormat s) d))) := by
  have hwaits : waitsForCommand (classify s a) = false := by rw [hplace]; rfl
  have htaken := processorWrite_taken (d := d) hfree (Or.inr hwaits) (Or.inl hroom)
  have hwrite : takeWrite (beginStep s) (some (.input, slot)) a d =
      captureWrite (postWrite (beginStep s) a d) a slot (inputSize s)
        (sampleOf (inputFormat s) d) := by
    change takeInputWrite (beginStep s) slot a d = _
    have hbegun : (beginStep s).setup.engine = .running := hrunning
    unfold takeInputWrite
    rw [hbegun]
    rfl
  rw [hplace, hwrite] at htaken
  exact htaken

section
variable (s : State) (a : Addr) (slot size : Nat) (x : Sample)

theorem captureWrite_begins (h : s.cap.offset = none) :
    captureWrite s a slot size x = entryTests (synchronise s slot x) := by
  rw [captureWrite, h]

/-- The four cases of the gap. -/
theorem captureWrite_gap {o : Nat} (h : s.cap.offset = some o) :
    let expected := (o + s.cap.c.toNat) % size
    let gap := (slot + size - expected) % size
    captureWrite s a slot size x =
      if gap = 0 then entryTests (captureInStep s x)
      else if gap ≤ 256 then entryTests (captureGap s slot gap x)
      else if gap < size / 2 then entryTests (captureRestart s slot gap x)
      else captureBackward s a expected := by
  rw [captureWrite, h]
  rfl

end

/-- The positions placed from a count on, and the count advanced; no cue executed yet. -/
def placedAndCounted (u : State) (samples : List Sample) (count : Word) (n : Nat) : State :=
  { placePositions samples (count + 1) u with
    cap := { (placePositions samples (count + 1) u).cap with count := count + BitVec.ofNat 32 n } }

theorem placedAndCounted_csc (u : State) (samples : List Sample) (count : Word) (n : Nat) :
    (placedAndCounted u samples count n).csc = u.csc := by
  have hframe := (placePositions_placed samples (count + 1) u).frame
  change (placePositions samples (count + 1) u).csc = u.csc
  rw [hframe]

theorem grant_csc (s : State) : (grant s).csc = s.csc := by
  obtain ⟨_, _, _, _, _, _, _, _, _, _, hcsc, _⟩ := (grant_busOnly s).fields
  exact hcsc

/-- A write that places positions, with its advance of the count and its event. -/
theorem exec_capture_takes {s u : State} {a : Addr} {d : Word} {slot n : Nat}
    {samples : List Sample} {event : State → State} (hfree : portFree s) (hroom : hasRoom s)
    (hrunning : s.setup.engine = .running) (hplace : classify s a = some (.input, slot))
    (hcsc : u.csc = s.csc) (hcount : u.cap.count = s.cap.count)
    (hevent : ∀ w, (event w).csc = w.csc)
    (hwrite : captureWrite (postWrite (beginStep s) a d) a slot (inputSize s)
      (sampleOf (inputFormat s) d) =
        entryTests (event (advanceCount (placeFrom u samples) n))) :
    ∃ t, exec (.capture a d) s = .next t ∧
      t = grant (entryTests (event (executeDue s.csc.atList
        (placedAndCounted u samples s.cap.count n)))) ∧
      t.csc.onsetList = s.csc.onsetList ∧
      t.csc.atList = s.csc.atList.dropWhile (fun e =>
        let away := (e.stamp - (s.cap.count + BitVec.ofNat 32 n)).toNat
        decide (away = 0 ∨ 2147483648 ≤ away)) := by
  have hplaced := placePositions_placed samples (s.cap.count + 1) u
  have hadvance : advanceCount (placeFrom u samples) n =
      executeDue s.csc.atList (placedAndCounted u samples s.cap.count n) := by
    rw [placeFrom, hcount, advanceCount_placed hplaced, hcsc, hcount]
    rfl
  have hlists := (executeDue_spec s.csc.atList (placedAndCounted u samples s.cap.count n)).2
  have hkept := (placedAndCounted_csc u samples s.cap.count n).trans hcsc
  have hscheduler : (grant (entryTests (event (executeDue s.csc.atList
      (placedAndCounted u samples s.cap.count n))))).csc =
      (executeDue s.csc.atList (placedAndCounted u samples s.cap.count n)).csc := by
    rw [grant_csc, entryTests_frame]
    exact hevent _
  refine ⟨_, ?_, rfl, ?_, ?_⟩
  · rw [exec_capture hfree hroom hrunning hplace, hwrite, hadvance]
  · rw [hscheduler, hlists]
    have honset := congrArg Scheduler.onsetList hkept
    exact honset
  · rw [hscheduler, hlists]
    rfl

/-- A capture restart parks the voices and clears the tracker before it places (R5). -/
theorem parkVoices_cleared_frame (s : State) : parkVoices (clearTracker s) =
    { s with
      trk := s.trk.cleared
      vce := { s.vce with voices := (parkVoices (clearTracker s)).vce.voices } } := by
  have h := mapVoices_frame (clearTracker s) fun _ r => parkRecord r
  exact h

theorem voiceOf_parkVoices (s : State) (v : Fin 4) :
    voiceOf (parkVoices s) v = parkRecord (voiceOf s v) := by
  rw [parkVoices, voiceOf_mapVoices]

/-- The event of a write is stamped with the count the write advanced to. -/
theorem raised_advanced {n : Nat} {u t : State} (h : Placed n u t) (count : Nat) (kind : EventKind)
    (detail : Byte) (value second : Word) :
    eventNow (advanceCount t count) kind detail none value second =
      ⟨kind, detail, none, value, second, u.cap.count + BitVec.ofNat 32 count⟩ := by
  have hcount : t.cap.count = u.cap.count := by rw [h.frame]
  rw [eventNow, (advanceCount_spec t count).1]
  exact congrArg (fun c => Event.mk kind detail none value second (c + BitVec.ofNat 32 count)) hcount

/-- Settles O37. -/
theorem captureNotifiesHopsAndCues : Obligations.CaptureNotifiesHopsAndCues := by
  refine ⟨fun s a d slot hfree hroom hrunning hplace => ?_,
    fun u x more stamp => ⟨rfl, placePositions_cases u x more stamp⟩,
    fun u => ⟨executeDue_nil u, fun e rest => executeDue_cons u e rest⟩,
    fun u => ⟨entryTests_frame u, fun v => ?_⟩⟩
  · have hraise : ∀ (e : Event) (w : State), (raiseEvent w e).csc = w.csc := fun e w => by
      rw [raiseEvent_rptOnly]
    refine ⟨fun hoffset => ?_, fun o hoffset => ?_⟩
    · exact exec_capture_takes hfree hroom hrunning hplace rfl rfl (fun _ => rfl)
        (captureWrite_begins (postWrite (beginStep s) a d) a slot _ _ hoffset)
    · have hcases := captureWrite_gap (postWrite (beginStep s) a d) a slot (inputSize s)
        (sampleOf (inputFormat s) d) hoffset
      intro g
      refine ⟨fun hgap => ?_, fun hlow hhigh => ?_, fun hlow hhigh => ?_⟩
      · exact exec_capture_takes (u := postWrite (beginStep s) a d) hfree hroom hrunning hplace rfl
          rfl (fun _ => rfl) (hcases.trans (if_pos hgap))
      · have hnone : ¬ g = 0 := by omega
        have hwrite := hcases.trans ((if_neg hnone).trans (if_pos hhigh))
        rw [captureGap] at hwrite
        rw [placeFrom, raised_advanced (placePositions_placed _ _ _)] at hwrite
        have htakes := exec_capture_takes (u := postWrite (beginStep s) a d)
          (event := fun w => raiseEvent w ⟨.captureGap, 0, none, BitVec.ofNat 32 g,
            BitVec.ofNat 32 slot, s.cap.count + BitVec.ofNat 32 (g + 1)⟩)
          hfree hroom hrunning hplace rfl rfl (hraise _) hwrite
        exact htakes
      · have hnone : ¬ g = 0 := by omega
        have hlarge : ¬ g ≤ 256 := by omega
        have hwrite := hcases.trans ((if_neg hnone).trans ((if_neg hlarge).trans (if_pos hhigh)))
        rw [captureRestart] at hwrite
        rw [placeFrom, raised_advanced (placePositions_placed _ _ _)] at hwrite
        refine ⟨parkVoices (clearTracker (postWrite (beginStep s) a d)),
          parkVoices_cleared_frame _, fun v => ?_, ?_⟩
        · rw [voiceOf_parkVoices, parkRecord_eq]
          rfl
        · have htakes := exec_capture_takes
            (u := setOffset (parkVoices (clearTracker (postWrite (beginStep s) a d))) slot)
            (event := fun w => raiseEvent w ⟨.captureRestart, 1, none, BitVec.ofNat 32 g,
              BitVec.ofNat 32 slot, s.cap.count + BitVec.ofNat 32 (g + 1)⟩)
            hfree hroom hrunning hplace rfl rfl (hraise _) hwrite
          exact htakes
  · refine ⟨fun t hparked htarget hfill => ?_, fun hstays => ?_⟩
    · rw [voiceOf_entryTests, entryTest_enters hparked htarget hfill]
      rfl
    · rw [voiceOf_entryTests, entryTest_unchanged hstays]

end Sys2Proof.Machine
end

section
/-! PROOFS. The cases of a captured write, by what each leaves. -/

namespace Sys2Proof.Machine

/-! ### Cues executed with no tap read in flight leave the bus path alone (R76) -/

theorem foldl_bus {s : State} {f : State → Fin 4 → State}
    (hf : ∀ u v, tapInFlight u = false → (f u v).bus = u.bus) (h : tapInFlight s = false)
    (l : List (Fin 4)) : (l.foldl f s).bus = s.bus := by
  induction l generalizing s with
  | nil => rfl
  | cons v rest ih =>
    have hbus := hf s v h
    rw [List.foldl_cons, ih ((tapInFlight_congr hbus).trans h), hbus]

theorem handDisables_bus {s : State} (h : tapInFlight s = false) (l : List (Fin 4)) :
    (handDisables l s).bus = s.bus :=
  foldl_bus (fun u v hu => by rw [handClaim_untapped hu]; rfl) h l

theorem replanOne_bus {s : State} (h : tapInFlight s = false) (v : Fin 4) :
    (replanOne s v).bus = s.bus := by
  have hbus := (planVoice_planning s v (otherVoices v)).bus
  unfold replanOne
  rw [handVoice_bus ((tapInFlight_congr hbus).trans h), hbus]

theorem replanUnless_bus {s : State} (h : tapInFlight s = false) (b : Bool) :
    (replanUnless b s).bus = s.bus := by
  unfold replanUnless
  split
  · rfl
  · exact replanAll_bus h

theorem executeMusical_bus {s : State} (h : tapInFlight s = false) (b : Bool) (cue : MusicalCue) :
    (executeMusical b cue s).bus = s.bus := by
  cases cue with
  | chord c =>
    change (executeChord b c s).bus = s.bus
    unfold executeChord
    split
    · rfl
    · exact replanUnless_bus (s := { s with pln := { s.pln with chord := checkedChord s c } }) h b
  | key k =>
    change (executeKey b k s).bus = s.bus
    unfold executeKey
    split
    · rfl
    · exact replanUnless_bus (s := { s with pln := { s.pln with key := k } }) h b
  | voiceOn mask =>
    have hbus : (markEnabled mask s).bus = s.bus := by rw [markEnabled_frame]
    change (replanUnless b (markEnabled mask s)).bus = s.bus
    rw [replanUnless_bus ((tapInFlight_congr hbus).trans h), hbus]
  | voiceOff mask =>
    have hbus : (clearEnabled mask s).bus = s.bus := by rw [clearEnabled_frame]
    rw [executeVoiceOff_eq, handDisables_bus ((tapInFlight_congr hbus).trans h), hbus]
  | voiceMode v m x =>
    change (executeVoiceMode b v m x s).bus = s.bus
    unfold executeVoiceMode
    dsimp only
    split
    · rfl
    · split
      · rfl
      · exact replanOne_bus (s := setPlan s v _) h v
  | hold => rfl
  | release =>
    have hbus : (releasePlans s).bus = s.bus := by rw [releasePlans_frame]
    change (replanUnless b (releasePlans s)).bus = s.bus
    rw [replanUnless_bus ((tapInFlight_congr hbus).trans h), hbus]

theorem executeDue_bus {s : State} (h : tapInFlight s = false) (list : List AtEntry) :
    (executeDue list s).bus = s.bus := by
  induction list generalizing s with
  | nil => rfl
  | cons e rest ih =>
    unfold executeDue
    split
    · have hset : tapInFlight (setAtList s rest) = false := h
      have hbus := executeMusical_bus hset false e.cue
      rw [ih ((tapInFlight_congr hbus).trans hset), hbus]
      rfl
    · rfl

/-! ### The grant and the event after a captured write -/

/-- The grant reads the bus path and RESET alone (R152). -/
theorem grant_bus_congr {s t : State} (hbus : t.bus = s.bus) (hreset : t.resetLow = s.resetLow) :
    (grant t).bus = (grant s).bus := by
  have hrank : rankOne t = rankOne s := by simp only [rankOne, hbus]
  have hpressed : drainPressed t = drainPressed s := by
    simp only [drainPressed, heldForRoom, requestBlocked, hbus]
  have hchoice : chooseAccess t = chooseAccess s := by
    simp only [chooseAccess, hrank, hpressed, hbus]
  unfold grant
  rw [hreset, hchoice, hbus]
  split
  · exact hbus
  · split
    · exact hbus
    · split
      · exact hbus
      · rfl

/-- An event reaches the queue by the map, the setup and the queue alone (R172). -/
theorem raiseEvent_queue_congr {s t : State} (e : Event) (hqueue : t.rpt.queue = s.rpt.queue)
    (hlost : t.rpt.lost = s.rpt.lost) (hmap : t.map = s.map) (hsetup : t.setup = s.setup) :
    (raiseEvent t e).rpt.queue = (raiseEvent s e).rpt.queue ∧
    (raiseEvent t e).rpt.lost = (raiseEvent s e).rpt.lost := by
  have hqualifies : qualifies t e.kind = qualifies s e.kind := by
    simp only [qualifies, reportEntry, hmap, hsetup]
  unfold raiseEvent
  rw [hqualifies, hqueue]
  split
  · split
    · exact ⟨by rw [← hqueue], hlost⟩
    · exact ⟨hqueue, rfl⟩
  · exact ⟨hqueue, hlost⟩

/-! ### What a captured write keeps -/

/-- The machine as a captured write finds it before its first position: its word posted, capture and the
tracker and the voices as the case of the gap leaves them. -/
def postedFor (s : State) (a : Addr) (d : Word) (u : State) : Prop :=
  u = { s with
    pd := none
    bus := { s.bus with queue := s.bus.queue ++ [⟨a, d⟩] }
    cap := u.cap
    trk := u.trk
    vce := u.vce }

theorem postedFor.fields {s u : State} {a : Addr} {d : Word} (h : postedFor s a d u) :
    u.setup = s.setup ∧ u.map = s.map ∧ u.mem = s.mem ∧ u.crx = s.crx ∧
    u.resetLow = s.resetLow ∧ u.bus = { s.bus with queue := s.bus.queue ++ [⟨a, d⟩] } ∧
    u.rpt = s.rpt := by
  unfold postedFor at h
  rw [h]
  exact ⟨rfl, rfl, rfl, rfl, rfl, rfl, rfl⟩

/-- A captured write's end, by its parts: positions, advance, event, entry tests, grant. -/
def capturedEnd (event : State → State) (u : State) (samples : List Sample) (count : Word)
    (list : List AtEntry) (n : Nat) : State :=
  grant (entryTests (event (executeDue list (placedAndCounted u samples count n))))

/-- An event that rewrites the Report Unit alone. -/
def reportsOnly (event : State → State) : Prop := ∀ w, event w = { w with rpt := (event w).rpt }

theorem reportsOnly_raiseEvent (e : Event) : reportsOnly fun w => raiseEvent w e :=
  fun w => raiseEvent_rptOnly w e

theorem reportsOnly_id : reportsOnly id := fun _ => rfl

section
variable {event : State → State} {u : State} {samples : List Sample} {count : Word} {list : List AtEntry}
  {n : Nat}

/-- The grant, the entry tests and the event keep the advance's result, but for what each rewrites. -/
theorem capturedEnd_fields (h : reportsOnly event) :
    let x := executeDue list (placedAndCounted u samples count n)
    let t := capturedEnd event u samples count list n
    t.setup = x.setup ∧ t.map = x.map ∧ t.mem = x.mem ∧ t.crx = x.crx ∧ t.cap = x.cap ∧
    t.trk = x.trk ∧ t.bus = (grant x).bus ∧ t.rpt = (event x).rpt ∧
    ∀ v, voiceOf t v = entryTest x (voiceOf x v) := by
  intro x t
  have hevent := h x
  have htests := entryTests_frame (event x)
  obtain ⟨_, _, hmem, hmap, hsetup, hcap, htrk, _, hvce, hcrx, _, hrpt⟩ :=
    (grant_busOnly (entryTests (event x))).fields
  have hbus : (entryTests (event x)).bus = x.bus := by rw [htests, hevent]
  have hreset : (entryTests (event x)).resetLow = x.resetLow := by rw [htests, hevent]
  refine ⟨hsetup.trans ?_, hmap.trans ?_, hmem.trans ?_, hcrx.trans ?_, hcap.trans ?_,
    htrk.trans ?_, grant_bus_congr hbus hreset, hrpt.trans ?_, fun v => ?_⟩
  · rw [htests, hevent]
  · rw [htests, hevent]
  · rw [htests, hevent]
  · rw [htests, hevent]
  · rw [htests, hevent]
  · rw [htests, hevent]
  · rw [htests]
  · have hvoice : voiceOf t v = voiceOf (entryTests (event x)) v := congrArg (·.voices[v]) hvce
    rw [hvoice, voiceOf_entryTests, hevent]
    rfl

/-- A captured write's frame, and the capture state it leaves (R1 to R5). -/
theorem capturedEnd_spec {s : State} {a : Addr} {d : Word} (hcycle : s.bus.cycle = none)
    (hposted : postedFor s a d u) (h : reportsOnly event) (hsamples : 0 < samples.length) :
    let t := capturedEnd event u samples count list n
    (t.setup = s.setup ∧ t.map = s.map ∧ t.mem = s.mem ∧ t.crx = s.crx ∧
      t.bus = (grant { s with bus := { s.bus with queue := s.bus.queue ++ [⟨a, d⟩] } }).bus) ∧
    t.cap = ⟨u.cap.offset, u.cap.c + BitVec.ofNat 32 samples.length,
      min 65536 (u.cap.fill + samples.length), count + BitVec.ofNat 32 n⟩ ∧
    t.trk = (placePositions samples (count + 1) u).trk := by
  intro t
  obtain ⟨hsetup, hmap, hmem, hcrx, hcap, htrk, hbus, _, _⟩ :=
    capturedEnd_fields (u := u) (samples := samples) (count := count) (list := list) (n := n) h
  obtain ⟨hsetup', hmap', hmem', hcrx', hreset', hbus', _⟩ := hposted.fields
  obtain ⟨hframe, hfill, _, _⟩ := placePositions_placed samples (count + 1) u
  rw [if_neg (by omega)] at hfill
  have hlists := (executeDue_spec list (placedAndCounted u samples count n)).1
  have hplacedBus : (placedAndCounted u samples count n).bus = u.bus := by
    change (placePositions samples (count + 1) u).bus = u.bus
    rw [hframe]
  have huntapped : tapInFlight (placedAndCounted u samples count n) = false := by
    simp only [tapInFlight, hplacedBus, hbus', hcycle]
  have hgrant : (executeDue list (placedAndCounted u samples count n)).bus =
      { s.bus with queue := s.bus.queue ++ [⟨a, d⟩] } :=
    (executeDue_bus huntapped list).trans (hplacedBus.trans hbus')
  have hhigh : (executeDue list (placedAndCounted u samples count n)).resetLow = s.resetLow := by
    refine (show _ = (placedAndCounted u samples count n).resetLow from hlists.resetLow).trans ?_
    change (placePositions samples (count + 1) u).resetLow = s.resetLow
    rw [hframe]
    exact hreset'
  refine ⟨⟨hsetup.trans ?_, hmap.trans ?_, hmem.trans ?_, hcrx.trans ?_,
    hbus.trans (grant_bus_congr hgrant hhigh)⟩, hcap.trans ?_, htrk.trans hlists.trk⟩
  · refine (show _ = (placedAndCounted u samples count n).setup from hlists.setup).trans ?_
    change (placePositions samples (count + 1) u).setup = s.setup
    rw [hframe]
    exact hsetup'
  · refine (show _ = (placedAndCounted u samples count n).map from hlists.map).trans ?_
    change (placePositions samples (count + 1) u).map = s.map
    rw [hframe]
    exact hmap'
  · refine (show _ = (placedAndCounted u samples count n).mem from hlists.mem).trans ?_
    change (placePositions samples (count + 1) u).mem = s.mem
    rw [hframe]
    exact hmem'
  · refine (show _ = (placedAndCounted u samples count n).crx from hlists.crx).trans ?_
    change (placePositions samples (count + 1) u).crx = s.crx
    rw [hframe]
    exact hcrx'
  · refine (show _ = (placedAndCounted u samples count n).cap from hlists.cap).trans ?_
    change { (placePositions samples (count + 1) u).cap with
      count := count + BitVec.ofNat 32 n } = _
    rw [← hfill]
    rw [hframe]

/-- With an empty AT list the advance changes the count alone. -/
theorem executeDue_nothing (hlist : u.csc.atList = []) :
    executeDue [] (placedAndCounted u samples count n) = placedAndCounted u samples count n := by
  have hcsc : (placedAndCounted u samples count n).csc.atList = [] := by
    rw [placedAndCounted_csc, hlist]
  rw [executeDue_nil, ← hcsc]

end

/-- A captured write's event, where no cue was due (R4, R5). -/
theorem capturedEnd_raised {s u : State} {a : Addr} {d : Word} {samples : List Sample} {count : Word}
    {n : Nat} (hposted : postedFor s a d u) (hlist : u.csc.atList = []) (e : Event) :
    let t := capturedEnd (fun w => raiseEvent w e) u samples count [] n
    t.rpt.queue = (raiseEvent s e).rpt.queue ∧ t.rpt.lost = (raiseEvent s e).rpt.lost := by
  intro t
  obtain ⟨_, _, _, _, _, _, _, hrpt, _⟩ := capturedEnd_fields (u := u) (samples := samples)
    (count := count) (list := []) (n := n) (reportsOnly_raiseEvent e)
  obtain ⟨hsetup, hmap, _, _, _, _, hreports⟩ := hposted.fields
  have hframe := (placePositions_placed samples (count + 1) u).frame
  have hqueue : (placedAndCounted u samples count n).rpt.queue = s.rpt.queue := by
    change (placePositions samples (count + 1) u).rpt.queue = _
    rw [hframe, ← hreports]
  have hlost : (placedAndCounted u samples count n).rpt.lost = s.rpt.lost := by
    change (placePositions samples (count + 1) u).rpt.lost = _
    rw [hframe, ← hreports]
  have hmap' : (placedAndCounted u samples count n).map = s.map := by
    change (placePositions samples (count + 1) u).map = _
    rw [hframe, ← hmap]
  have hsetup' : (placedAndCounted u samples count n).setup = s.setup := by
    change (placePositions samples (count + 1) u).setup = _
    rw [hframe, ← hsetup]
  rw [executeDue_nothing hlist] at hrpt
  rw [hrpt]
  exact raiseEvent_queue_congr e hqueue hlost hmap' hsetup'

/-- A captured write takes a voice's record through no more than the entry test, where no cue was due. -/
theorem capturedEnd_voiceOf {u : State} {samples : List Sample} {count : Word} {n : Nat}
    {event : State → State} (h : reportsOnly event) (hlist : u.csc.atList = []) (v : Fin 4) :
    voiceOf (capturedEnd event u samples count [] n) v =
      entryTest (placedAndCounted u samples count n) (voiceOf u v) := by
  obtain ⟨_, _, _, _, _, _, _, _, hvoices⟩ := capturedEnd_fields (u := u) (samples := samples)
    (count := count) (list := []) (n := n) h
  have hframe := (placePositions_placed samples (count + 1) u).frame
  have hvoice : voiceOf (placedAndCounted u samples count n) v = voiceOf u v := by
    change voiceOf (placePositions samples (count + 1) u) v = _
    rw [hframe]
    rfl
  rw [executeDue_nothing hlist] at hvoices
  exact (hvoices v).trans (by rw [hvoice])

/-- The first position's tracker: the sample, no hop (R7). -/
theorem placePositions_first {u : State} (hc : u.cap.c = 0) (x : Sample) (stamp : Word) :
    (placePositions [x] stamp u).trk = { u.trk with buffer := (x :: u.trk.buffer).take 2048 } := by
  change (placePosition u x stamp).trk = _
  rw [placePosition_first hc]
  rfl

/-- A consistent record with a position is parked, or silent where its enable is clear (R62, R75). -/
theorem parkRecord_positioned {r : VoiceRecord} (hconsistent : r.consistent) (hp : r.p ≠ none) :
    (parkRecord r).p = none ∧ (parkRecord r).fade = 0 ∧
    (parkRecord r).state = (if r.enable then .parked else .silent) ∧
    (parkRecord r).target = r.target := by
  unfold VoiceRecord.consistent at hconsistent
  cases hstate : r.state with
  | silent => simp only [hstate] at hconsistent; exact absurd hconsistent.2.1 hp
  | parked => simp only [hstate] at hconsistent; exact absurd hconsistent.2.1 hp
  | entering =>
    simp only [hstate] at hconsistent
    simp [parkRecord, dropPositions, hstate, hconsistent.1]
  | sounding =>
    simp only [hstate] at hconsistent
    simp [parkRecord, dropPositions, hstate, hconsistent.1]
  | leaving => simp [parkRecord, dropPositions, hstate]

/-- A write that places positions is the end of a captured write. -/
theorem exec_captured {s u : State} {a : Addr} {d : Word} {slot n : Nat} {samples : List Sample}
    {event : State → State} (hfree : portFree s) (hroom : hasRoom s)
    (hrunning : s.setup.engine = .running) (hplace : classify s a = some (.input, slot))
    (hcsc : u.csc = s.csc) (hcount : u.cap.count = s.cap.count) (hevent : reportsOnly event)
    (hwrite : captureWrite (postWrite (beginStep s) a d) a slot (inputSize s)
      (sampleOf (inputFormat s) d) =
        entryTests (event (advanceCount (placeFrom u samples) n))) :
    exec (.capture a d) s = .next (capturedEnd event u samples s.cap.count s.csc.atList n) := by
  have hscheduler : ∀ w, (event w).csc = w.csc := fun w => by rw [hevent w]
  obtain ⟨t, ht, hend, _⟩ :=
    exec_capture_takes hfree hroom hrunning hplace hcsc hcount hscheduler hwrite
  rw [ht, hend]
  rfl

/-- The synchronising write (R2). -/
theorem exec_capture_begins {s : State} {a : Addr} {d : Word} {slot : Nat} (hfree : portFree s)
    (hroom : hasRoom s) (hrunning : s.setup.engine = .running)
    (hplace : classify s a = some (.input, slot)) (hoffset : s.cap.offset = none) :
    exec (.capture a d) s = .next (capturedEnd id (setOffset (postWrite (beginStep s) a d) slot)
      [sampleOf (inputFormat s) d] s.cap.count s.csc.atList 1) :=
  exec_captured hfree hroom hrunning hplace rfl rfl reportsOnly_id
    (captureWrite_begins (postWrite (beginStep s) a d) a slot _ _ hoffset)

/-- The writes at a gap (R3 to R6). -/
theorem exec_capture_gap {s : State} {a : Addr} {d : Word} {slot o : Nat} (hfree : portFree s)
    (hroom : hasRoom s) (hrunning : s.setup.engine = .running)
    (hplace : classify s a = some (.input, slot)) (hoffset : s.cap.offset = some o) :
    let size := inputSize s
    let x := sampleOf (inputFormat s) d
    let expected := (o + s.cap.c.toNat) % size
    let g := (slot + size - expected) % size
    let posted := postWrite (beginStep s) a d
    let raised (kind : EventKind) (detail : Byte) (w : State) : State :=
      raiseEvent w ⟨kind, detail, none, BitVec.ofNat 32 g, BitVec.ofNat 32 slot,
        s.cap.count + BitVec.ofNat 32 (g + 1)⟩
    (g = 0 → exec (.capture a d) s =
      .next (capturedEnd id posted [x] s.cap.count s.csc.atList 1)) ∧
    (1 ≤ g → g ≤ 256 → exec (.capture a d) s =
      .next (capturedEnd (raised .captureGap 0) posted (List.replicate g 0 ++ [x]) s.cap.count
        s.csc.atList (g + 1))) ∧
    (257 ≤ g → g < size / 2 → exec (.capture a d) s =
      .next (capturedEnd (raised .captureRestart 1)
        (setOffset (parkVoices (clearTracker posted)) slot) [x] s.cap.count s.csc.atList (g + 1))) ∧
    (257 ≤ g → size / 2 ≤ g → exec (.capture a d) s =
      .next (grant (captureBackward posted a expected))) := by
  intro size x expected g posted raised
  have hcases := captureWrite_gap posted a slot size x hoffset
  refine ⟨fun hzero => ?_, fun hlow hhigh => ?_, fun hlow hhigh => ?_, fun hlow hhigh => ?_⟩
  · exact exec_captured hfree hroom hrunning hplace rfl rfl reportsOnly_id
      (hcases.trans (if_pos hzero))
  · have hnone : ¬ g = 0 := by omega
    have hwrite := hcases.trans ((if_neg hnone).trans (if_pos hhigh))
    rw [captureGap, placeFrom, raised_advanced (placePositions_placed _ _ _)] at hwrite
    exact exec_captured hfree hroom hrunning hplace rfl rfl (reportsOnly_raiseEvent _) hwrite
  · have hnone : ¬ g = 0 := by omega
    have hlarge : ¬ g ≤ 256 := by omega
    have hwrite := hcases.trans ((if_neg hnone).trans ((if_neg hlarge).trans (if_pos hhigh)))
    rw [captureRestart, placeFrom, raised_advanced (placePositions_placed _ _ _)] at hwrite
    exact exec_captured (u := setOffset (parkVoices (clearTracker posted)) slot) hfree hroom
      hrunning hplace rfl rfl (reportsOnly_raiseEvent _) hwrite
  · have hnone : ¬ g = 0 := by omega
    have hlarge : ¬ g ≤ 256 := by omega
    have hbehind : ¬ g < size / 2 := by omega
    have hwrite := hcases.trans
      ((if_neg hnone).trans ((if_neg hlarge).trans (if_neg hbehind)))
    rw [exec_capture hfree hroom hrunning hplace]
    exact congrArg (fun t => Host.Outcome.next (grant t)) hwrite

/-- What a rewrite leaves: its event, and the posted word (R6). -/
theorem captureBackward_fields (s : State) (a : Addr) (d : Word) (expected : Nat) :
    let t := grant (captureBackward (postWrite (beginStep s) a d) a expected)
    t.setup = s.setup ∧ t.map = s.map ∧ t.mem = s.mem ∧ t.crx = s.crx ∧
    t.bus = (grant { s with bus := { s.bus with queue := s.bus.queue ++ [⟨a, d⟩] } }).bus ∧
    t.cap = s.cap ∧ t.trk = s.trk ∧ t.vce = s.vce ∧ t.pln = s.pln ∧ t.csc = s.csc := by
  intro t
  have hraised : captureBackward (postWrite (beginStep s) a d) a expected =
      { postWrite (beginStep s) a d with
        rpt := (captureBackward (postWrite (beginStep s) a d) a expected).rpt } :=
    raiseEvent_rptOnly _ _
  obtain ⟨_, _, hmem, hmap, hsetup, hcap, htrk, hpln, hvce, hcrx, hcsc, _⟩ :=
    (grant_busOnly (captureBackward (postWrite (beginStep s) a d) a expected)).fields
  refine ⟨hsetup.trans ?_, hmap.trans ?_, hmem.trans ?_, hcrx.trans ?_, grant_bus_congr ?_ ?_,
    hcap.trans ?_, htrk.trans ?_, hvce.trans ?_, hpln.trans ?_, hcsc.trans ?_⟩
  all_goals
    rw [hraised]
    rfl

/-- After one position from an empty fill no voice enters (R63). -/
theorem entryTest_first {u : State} (hfill : u.cap.fill = 0) (x : Sample) (count : Word) (n : Nat)
    (r : VoiceRecord) : entryTest (placedAndCounted u [x] count n) r = r := by
  have hone : (placedAndCounted u [x] count n).cap.fill = 1 := by
    have h := (placePositions_placed [x] (count + 1) u).fill
    rw [hfill] at h
    exact h
  exact entryTest_unchanged (Or.inr (Or.inr (by rw [hone]; omega)))

/-- The tracker after the first position of a capture restart (R5, R19). -/
theorem placePositions_restarted (s : State) (slot : Nat) (x : Sample) (stamp : Word) :
    (placePositions [x] stamp (setOffset (parkVoices (clearTracker s)) slot)).trk = { s.trk with
      buffer := [x], history := [], sung := none, outside := 0, unvoiced := 0,
      generation := s.trk.generation + 1 } := by
  rw [placePositions_first rfl]
  rfl

/-- The voices after a capture restart with no cue due (R5, R75). -/
theorem restarted_voiceOf {s : State} {slot : Nat} {x : Sample} {count : Word} {n : Nat}
    {event : State → State} (hevent : reportsOnly event) (hlist : s.csc.atList = []) (v : Fin 4) :
    voiceOf (capturedEnd event (setOffset (parkVoices (clearTracker s)) slot) [x] count [] n) v =
      parkRecord (voiceOf s v) := by
  rw [capturedEnd_voiceOf (u := setOffset (parkVoices (clearTracker s)) slot) hevent hlist,
    entryTest_first rfl]
  exact voiceOf_parkVoices (clearTracker s) v

/-- A small gap's zeros and its sample, newest first (R4, R15). -/
theorem placePositions_buffer_gap (g : Nat) (x : Sample) (stamp : Word) (s : State) :
    (placePositions (List.replicate g 0 ++ [x]) stamp s).trk.buffer =
      ((x :: List.replicate g 0) ++ s.trk.buffer).take 2048 := by
  have hreverse : (List.replicate g (0 : Sample) ++ [x]).reverse = x :: List.replicate g 0 := by simp
  rw [← hreverse]
  cases g with
  | zero => exact placePositions_buffer x [] stamp s
  | succ g => exact placePositions_buffer 0 (List.replicate g 0 ++ [x]) stamp s

/-- What a write into the INPUT window keeps, whatever its gap: setup, map, memory, the receiver, and the bus
path but for the posted word (R1). -/
def captureKeeps (s : State) (a : Addr) (d : Word) (t : State) : Prop :=
  t.setup = s.setup ∧ t.map = s.map ∧ t.mem = s.mem ∧ t.crx = s.crx ∧
  t.bus = (grant { s with bus := { s.bus with queue := s.bus.queue ++ [⟨a, d⟩] } }).bus

section
variable (s : State) (a : Addr) (d : Word) (slot g : Nat) (x : Sample) (hcycle : s.bus.cycle = none)
include hcycle

/-- The synchronising write leaves position 0 at its slot (R2). -/
theorem captureBegins_leaves :
    let t := capturedEnd id (setOffset (postWrite (beginStep s) a d) slot) [x] s.cap.count
      s.csc.atList 1
    captureKeeps s a d t ∧ t.cap = ⟨some slot, 1, 1, s.cap.count + 1⟩ ∧
    t.trk = { s.trk with buffer := (x :: s.trk.buffer).take 2048 } := by
  intro t
  obtain ⟨hkept, hcap, htrk⟩ := capturedEnd_spec (event := id) (samples := [x])
    (count := s.cap.count) (list := s.csc.atList) (n := 1) hcycle
    (show postedFor s a d (setOffset (postWrite (beginStep s) a d) slot) from rfl) reportsOnly_id
    (by simp)
  refine ⟨hkept, hcap, htrk.trans ?_⟩
  rw [placePositions_first rfl]
  rfl

/-- A write in step leaves one position more (R3). -/
theorem captureInStep_leaves :
    let t := capturedEnd id (postWrite (beginStep s) a d) [x] s.cap.count s.csc.atList 1
    captureKeeps s a d t ∧
    t.cap = ⟨s.cap.offset, s.cap.c + 1, min 65536 (s.cap.fill + 1), s.cap.count + 1⟩ ∧
    t.trk.buffer = (x :: s.trk.buffer).take 2048 ∧ t.trk.history = s.trk.history ∧
    t.trk.sung = s.trk.sung := by
  intro t
  obtain ⟨hkept, hcap, htrk⟩ := capturedEnd_spec (event := id) (samples := [x])
    (count := s.cap.count) (list := s.csc.atList) (n := 1) hcycle
    (show postedFor s a d (postWrite (beginStep s) a d) from rfl) reportsOnly_id (by simp)
  obtain ⟨_, _, hhistory, hsung⟩ :=
    placePositions_placed [x] (s.cap.count + 1) (postWrite (beginStep s) a d)
  refine ⟨hkept, hcap, ?_, ?_, ?_⟩
  · rw [htrk]
    exact placePositions_buffer x [] _ _
  · rw [htrk]
    exact hhistory
  · rw [htrk]
    exact hsung

/-- A small gap leaves its zeros, the sample, and one event (R4). -/
theorem captureGap_leaves (e : Event) :
    let t := capturedEnd (fun w => raiseEvent w e) (postWrite (beginStep s) a d)
      (List.replicate g 0 ++ [x]) s.cap.count s.csc.atList (g + 1)
    captureKeeps s a d t ∧
    t.cap = ⟨s.cap.offset, s.cap.c + BitVec.ofNat 32 (g + 1), min 65536 (s.cap.fill + (g + 1)),
      s.cap.count + BitVec.ofNat 32 (g + 1)⟩ ∧
    t.trk.buffer = ((x :: List.replicate g 0) ++ s.trk.buffer).take 2048 ∧
    (s.csc.atList = [] → t.rpt.queue = (raiseEvent s e).rpt.queue ∧
      t.rpt.lost = (raiseEvent s e).rpt.lost) := by
  intro t
  have hposted : postedFor s a d (postWrite (beginStep s) a d) := rfl
  have hlength : (List.replicate g (0 : Sample) ++ [x]).length = g + 1 := by simp
  obtain ⟨hkept, hcap, htrk⟩ := capturedEnd_spec (event := fun w => raiseEvent w e)
    (samples := List.replicate g 0 ++ [x]) (count := s.cap.count) (list := s.csc.atList)
    (n := g + 1) hcycle hposted (reportsOnly_raiseEvent e) (by omega)
  rw [hlength] at hcap
  refine ⟨hkept, hcap, ?_, fun hlist => ?_⟩
  · rw [htrk]
    exact placePositions_buffer_gap _ _ _ _
  · have hraised := capturedEnd_raised (samples := List.replicate g 0 ++ [x]) (count := s.cap.count)
      (n := g + 1) hposted hlist e
    rw [← hlist] at hraised
    exact hraised

/-- A capture restart leaves position 0 at its slot, the tracker cleared, the voices parked, and one event
(R5). -/
theorem captureRestart_leaves (e : Event) :
    let t := capturedEnd (fun w => raiseEvent w e)
      (setOffset (parkVoices (clearTracker (postWrite (beginStep s) a d))) slot) [x] s.cap.count
      s.csc.atList (g + 1)
    captureKeeps s a d t ∧
    t.cap = ⟨some slot, 1, 1, s.cap.count + BitVec.ofNat 32 (g + 1)⟩ ∧
    t.trk = { s.trk with
      buffer := [x], history := [], sung := none, outside := 0, unvoiced := 0,
      generation := s.trk.generation + 1 } ∧
    (s.csc.atList = [] → ∀ v : Fin 4, voiceOf t v = parkRecord (voiceOf s v)) ∧
    (s.csc.atList = [] → t.rpt.queue = (raiseEvent s e).rpt.queue ∧
      t.rpt.lost = (raiseEvent s e).rpt.lost) := by
  intro t
  have hposted : postedFor s a d
      (setOffset (parkVoices (clearTracker (postWrite (beginStep s) a d))) slot) := rfl
  obtain ⟨hkept, hcap, htrk⟩ := capturedEnd_spec (event := fun w => raiseEvent w e)
    (samples := [x]) (count := s.cap.count) (list := s.csc.atList) (n := g + 1) hcycle hposted
    (reportsOnly_raiseEvent e) (by simp)
  refine ⟨hkept, hcap, htrk.trans (placePositions_restarted _ _ _ _), fun hlist v => ?_,
    fun hlist => ?_⟩
  · have hparked := restarted_voiceOf (s := postWrite (beginStep s) a d) (slot := slot) (x := x)
      (count := s.cap.count) (n := g + 1) (reportsOnly_raiseEvent e) hlist v
    rw [← hlist] at hparked
    exact hparked
  · have hraised := capturedEnd_raised (samples := [x]) (count := s.cap.count) (n := g + 1) hposted
      hlist e
    rw [← hlist] at hraised
    exact hraised

end

/-- Settles O36, by the case of the gap. -/
theorem captureCases : Obligations.CaptureCases := by
  intro s a d slot hfree hroom hrunning hplace size x raised
  cases hoffset : s.cap.offset with
  | none =>
    obtain ⟨⟨hsetup, hmap, hmem, hcrx, hbus⟩, hbegun⟩ :=
      captureBegins_leaves s a d slot x hfree.1
    exact ⟨_, exec_capture_begins hfree hroom hrunning hplace hoffset, hsetup, hmap, hmem, hcrx,
      hbus, fun _ => hbegun, fun o ho => by simp at ho⟩
  | some o =>
    obtain ⟨hstep, hgap, hrestart, hbackward⟩ :=
      exec_capture_gap (d := d) hfree hroom hrunning hplace hoffset
    generalize hsize : (slot + inputSize s - (o + s.cap.c.toNat) % inputSize s) % inputSize s = g
      at hstep hgap hrestart hbackward
    have hcase : g = 0 ∨ (1 ≤ g ∧ g ≤ 256) ∨ (257 ≤ g ∧ g < inputSize s / 2) ∨
      (257 ≤ g ∧ inputSize s / 2 ≤ g) := by omega
    rcases hcase with hzero | ⟨hlow, hhigh⟩ | ⟨hlow, hhigh⟩ | ⟨hlow, hhigh⟩
    · obtain ⟨⟨hsetup, hmap, hmem, hcrx, hbus⟩, hleft⟩ := captureInStep_leaves s a d x hfree.1
      refine ⟨_, hstep hzero, hsetup, hmap, hmem, hcrx, hbus, fun h => by simp at h,
        fun o' ho' => ?_⟩
      obtain rfl := Option.some.inj ho'
      intro expected g'
      obtain rfl : g' = g := hsize
      rw [hoffset] at hleft
      exact ⟨fun _ => hleft, by omega, by omega, by omega⟩
    · obtain ⟨⟨hsetup, hmap, hmem, hcrx, hbus⟩, hleft⟩ := captureGap_leaves s a d g x hfree.1
        ⟨.captureGap, 0, none, BitVec.ofNat 32 g, BitVec.ofNat 32 slot,
          s.cap.count + BitVec.ofNat 32 (g + 1)⟩
      refine ⟨_, hgap hlow hhigh, hsetup, hmap, hmem, hcrx, hbus, fun h => by simp at h,
        fun o' ho' => ?_⟩
      obtain rfl := Option.some.inj ho'
      intro expected g'
      obtain rfl : g' = g := hsize
      rw [hoffset] at hleft
      exact ⟨by omega, fun _ _ => hleft, by omega, by omega⟩
    · obtain ⟨⟨hsetup, hmap, hmem, hcrx, hbus⟩, hcap, htrk, hparked, hevent⟩ :=
        captureRestart_leaves s a d slot g x hfree.1
          ⟨.captureRestart, 1, none, BitVec.ofNat 32 g, BitVec.ofNat 32 slot,
            s.cap.count + BitVec.ofNat 32 (g + 1)⟩
      refine ⟨_, hrestart hlow hhigh, hsetup, hmap, hmem, hcrx, hbus, fun h => by simp at h,
        fun o' ho' => ?_⟩
      obtain rfl := Option.some.inj ho'
      intro expected g'
      obtain rfl : g' = g := hsize
      refine ⟨by omega, by omega, fun _ _ => ⟨hcap, htrk, fun hlist v hp hconsistent => ?_, hevent⟩,
        by omega⟩
      rw [hparked hlist v]
      exact parkRecord_positioned hconsistent hp
    · obtain ⟨hsetup, hmap, hmem, hcrx, hbus, hkept⟩ :=
        captureBackward_fields s a d ((o + s.cap.c.toNat) % inputSize s)
      refine ⟨_, hbackward hlow hhigh, hsetup, hmap, hmem, hcrx, hbus, fun h => by simp at h,
        fun o' ho' => ?_⟩
      obtain rfl := Option.some.inj ho'
      intro expected g'
      obtain rfl : g' = g := hsize
      exact ⟨by omega, by omega, by omega, fun _ _ => ⟨rfl, hkept⟩⟩

end Sys2Proof.Machine
end

section
/-! PROOFS. Notes of a set counted up and down, the range fold, and the unison check. -/

namespace Sys2Proof.Machine

/-! ### A set's notes, one after the other (R38) -/

/-- A defined set has a note in every octave. -/
theorem exists_tone {mask : BitVec 12} (h : mask ≠ 0) : ∃ i < 12, mask.getLsbD i = true := by
  by_contra hnone
  refine h (BitVec.eq_of_getLsbD_eq fun i hi => ?_)
  have hclear : mask.getLsbD i ≠ true := fun hset => hnone ⟨i, hi, hset⟩
  simpa using hclear

/-- From any number up, the next twelve hold a note of a defined set. -/
theorem exists_tone_above {mask : BitVec 12} (h : mask ≠ 0) (root : Nat) (m : Int) :
    ∃ j : Nat, 1 ≤ j ∧ j < 13 ∧ isTone mask root (m + j) = true := by
  obtain ⟨i, hi, hset⟩ := exists_tone h
  refine ⟨(((i : Int) + root - m - 1) % 12).toNat + 1, by omega, by omega, ?_⟩
  have hindex : ((m + (((((i : Int) + root - m - 1) % 12).toNat + 1 : Nat) : Int) - root) % 12).toNat =
      i := by omega
  rw [isTone, hindex, hset]

/-- From any number down, the next twelve hold a note of a defined set. -/
theorem exists_tone_below {mask : BitVec 12} (h : mask ≠ 0) (root : Nat) (m : Int) :
    ∃ j : Nat, 1 ≤ j ∧ j < 13 ∧ isTone mask root (m - j) = true := by
  obtain ⟨i, hi, hset⟩ := exists_tone h
  refine ⟨((m - (i : Int) - root - 1) % 12).toNat + 1, by omega, by omega, ?_⟩
  have hindex : ((m - ((((m - (i : Int) - root - 1) % 12).toNat + 1 : Nat) : Int) - root) % 12).toNat =
      i := by omega
  rw [isTone, hindex, hset]

/-- The twelve distances, as whole numbers. -/
theorem semitones_cast : (do let j ← semitones; pure (j : Int)) = (List.range' 1 12).map Nat.cast := rfl

/-- The first semitone distance that satisfies a test some distance satisfies. -/
theorem find_semitone {test : Int → Bool} (h : ∃ j : Nat, 1 ≤ j ∧ j < 13 ∧ test j = true) :
    ∃ j : Nat, (do let j ← semitones; pure (j : Int)).find? test = some (j : Int) ∧ 1 ≤ j ∧
      test j = true ∧ ∀ k : Nat, 1 ≤ k → k < j → test k = false := by
  rw [semitones_cast, List.find?_map]
  cases hfind : (List.range' 1 12).find? (test ∘ Nat.cast) with
  | none =>
    obtain ⟨j, hlow, hhigh, htest⟩ := h
    rw [List.find?_eq_none] at hfind
    exact absurd htest (hfind j (by rw [List.mem_range'_1]; omega))
  | some j =>
    rw [List.find?_range'_eq_some] at hfind
    obtain ⟨htest, hmem, hfirst⟩ := hfind
    rw [List.mem_range'_1] at hmem
    exact ⟨j, rfl, hmem.1, htest, fun k hk hkj => by simpa using hfirst k hk hkj⟩

/-- The next note above: a note of the set, with none of the set between (R43, R44). -/
theorem nextAbove_spec {mask : BitVec 12} (h : mask ≠ 0) (root : Nat) (m : Int) :
    isTone mask root (nextAbove mask root m) = true ∧ m < nextAbove mask root m ∧
    ∀ k, m < k → k < nextAbove mask root m → isTone mask root k = false := by
  obtain ⟨j, hfind, hlow, htone, hbetween⟩ := find_semitone (test := fun j => isTone mask root (m + j))
    (exists_tone_above h root m)
  have hnext : nextAbove mask root m = m + j := by rw [nextAbove, hfind]
  rw [hnext]
  refine ⟨htone, by omega, fun k hk hkj => ?_⟩
  have hdistance := hbetween (k - m).toNat (by omega) (by omega)
  rwa [show m + ((k - m).toNat : Int) = k from by omega] at hdistance

/-- The next note below: a note of the set, with none of the set between (R43, R44). -/
theorem nextBelow_spec {mask : BitVec 12} (h : mask ≠ 0) (root : Nat) (m : Int) :
    isTone mask root (nextBelow mask root m) = true ∧ nextBelow mask root m < m ∧
    ∀ k, nextBelow mask root m < k → k < m → isTone mask root k = false := by
  obtain ⟨j, hfind, hlow, htone, hbetween⟩ := find_semitone (test := fun j => isTone mask root (m - j))
    (exists_tone_below h root m)
  have hnext : nextBelow mask root m = m - j := by rw [nextBelow, hfind]
  rw [hnext]
  refine ⟨htone, by omega, fun k hk hkj => ?_⟩
  have hdistance := hbetween (m - k).toNat (by omega) (by omega)
  rwa [show m - ((m - k).toNat : Int) = k from by omega] at hdistance

/-- The highest note of a set at or below a number (R43). -/
theorem atOrBelow_spec {mask : BitVec 12} (h : mask ≠ 0) (root : Nat) (m : Int) :
    isTone mask root (atOrBelow mask root m) = true ∧ atOrBelow mask root m ≤ m ∧
    ∀ k, atOrBelow mask root m < k → k ≤ m → isTone mask root k = false := by
  unfold atOrBelow
  split
  · rename_i htone
    exact ⟨htone, le_refl m, fun k hk hkm => by omega⟩
  · rename_i htone
    obtain ⟨hnext, hbelow, hbetween⟩ := nextBelow_spec h root m
    refine ⟨hnext, by omega, fun k hk hkm => ?_⟩
    rcases eq_or_lt_of_le hkm with heq | hlt
    · rw [heq]
      simpa using htone
    · exact hbetween k hk hlt

theorem atOrBelow_unique {mask : BitVec 12} (h : mask ≠ 0) {root : Nat} {m r : Int}
    (htone : isTone mask root r = true) (hle : r ≤ m)
    (hbetween : ∀ k, r < k → k ≤ m → isTone mask root k = false) : r = atOrBelow mask root m := by
  obtain ⟨htone', hle', hbetween'⟩ := atOrBelow_spec h root m
  by_contra hne
  rcases lt_or_gt_of_ne hne with hlt | hlt
  · have := hbetween _ hlt hle'
    simp [htone'] at this
  · have := hbetween' _ hlt hle
    simp [htone] at this

/-! ### Steps counted (R43, R44) -/

/-- The notes of a set above a number, up to another. -/
noncomputable def tonesAbove (mask : BitVec 12) (root : Nat) (m t : Int) : Finset Int :=
  (Finset.Ioc m t).filter fun k => isTone mask root k

/-- The notes of a set below a number, down to another. -/
noncomputable def tonesBelow (mask : BitVec 12) (root : Nat) (m t : Int) : Finset Int :=
  (Finset.Ico t m).filter fun k => isTone mask root k

/-- Steps up to a note: the number counts the notes passed. -/
theorem tonesAbove_iterate {mask : BitVec 12} (h : mask ≠ 0) (root : Nat) (m : Int) (k : Nat) :
    m ≤ (nextAbove mask root)^[k] m ∧ (tonesAbove mask root m ((nextAbove mask root)^[k] m)).card = k := by
  induction k with
  | zero => simp [tonesAbove]
  | succ k ih =>
    rw [Function.iterate_succ_apply']
    generalize (nextAbove mask root)^[k] m = t at ih ⊢
    obtain ⟨hle, hcard⟩ := ih
    obtain ⟨htone, hlt, hbetween⟩ := nextAbove_spec h root t
    have hinsert : tonesAbove mask root m (nextAbove mask root t) =
        insert (nextAbove mask root t) (tonesAbove mask root m t) := by
      ext x
      simp only [tonesAbove, Finset.mem_filter, Finset.mem_Ioc, Finset.mem_insert]
      constructor
      · rintro ⟨⟨hmx, hxt⟩, hx⟩
        by_cases hxt' : x ≤ t
        · exact Or.inr ⟨⟨hmx, hxt'⟩, hx⟩
        · by_cases hlast : x < nextAbove mask root t
          · simp [hbetween x (by omega) hlast] at hx
          · exact Or.inl (by omega)
      · rintro (rfl | ⟨⟨hmx, hxt⟩, hx⟩)
        · exact ⟨⟨by omega, le_refl _⟩, htone⟩
        · exact ⟨⟨hmx, by omega⟩, hx⟩
    refine ⟨by omega, ?_⟩
    rw [hinsert, Finset.card_insert_of_notMem, hcard]
    simp only [tonesAbove, Finset.mem_filter, Finset.mem_Ioc]
    omega

/-- Steps down to a note: the number counts the notes passed. -/
theorem tonesBelow_iterate {mask : BitVec 12} (h : mask ≠ 0) (root : Nat) (m : Int) (k : Nat) :
    (nextBelow mask root)^[k] m ≤ m ∧ (tonesBelow mask root m ((nextBelow mask root)^[k] m)).card = k := by
  induction k with
  | zero => simp [tonesBelow]
  | succ k ih =>
    rw [Function.iterate_succ_apply']
    generalize (nextBelow mask root)^[k] m = t at ih ⊢
    obtain ⟨hle, hcard⟩ := ih
    obtain ⟨htone, hlt, hbetween⟩ := nextBelow_spec h root t
    have hinsert : tonesBelow mask root m (nextBelow mask root t) =
        insert (nextBelow mask root t) (tonesBelow mask root m t) := by
      ext x
      simp only [tonesBelow, Finset.mem_filter, Finset.mem_Ico, Finset.mem_insert]
      constructor
      · rintro ⟨⟨htx, hxm⟩, hx⟩
        by_cases htx' : t ≤ x
        · exact Or.inr ⟨⟨htx', hxm⟩, hx⟩
        · by_cases hlast : nextBelow mask root t < x
          · simp [hbetween x hlast (by omega)] at hx
          · exact Or.inl (by omega)
      · rintro (rfl | ⟨⟨htx, hxm⟩, hx⟩)
        · exact ⟨⟨le_refl _, by omega⟩, htone⟩
        · exact ⟨⟨by omega, hxm⟩, hx⟩
    refine ⟨by omega, ?_⟩
    rw [hinsert, Finset.card_insert_of_notMem, hcard]
    simp only [tonesBelow, Finset.mem_filter, Finset.mem_Ico]
    omega

/-- After at least one step up, or from a note, the walk stands on a note. -/
theorem iterate_nextAbove_tone {mask : BitVec 12} (h : mask ≠ 0) {root : Nat} {m : Int} {k : Nat}
    (hstart : 0 < k ∨ isTone mask root m = true) :
    isTone mask root ((nextAbove mask root)^[k] m) = true := by
  cases k with
  | zero => exact hstart.resolve_left (by omega)
  | succ k =>
    rw [Function.iterate_succ_apply']
    exact (nextAbove_spec h root _).1

theorem iterate_nextBelow_tone {mask : BitVec 12} (h : mask ≠ 0) {root : Nat} {m : Int} {k : Nat}
    (hstart : 0 < k) : isTone mask root ((nextBelow mask root)^[k] m) = true := by
  obtain ⟨j, rfl⟩ := Nat.exists_eq_succ_of_ne_zero (by omega : k ≠ 0)
  rw [Function.iterate_succ_apply']
  exact (nextBelow_spec h root _).1

/-- A higher note has more notes of the set up to it. -/
theorem card_tonesAbove_lt {mask : BitVec 12} {root : Nat} {m t u : Int} (hm : m ≤ t) (hlt : t < u)
    (hu : isTone mask root u = true) :
    (tonesAbove mask root m t).card < (tonesAbove mask root m u).card := by
  refine Finset.card_lt_card ⟨fun x hx => ?_, fun hsub => ?_⟩
  · simp only [tonesAbove, Finset.mem_filter, Finset.mem_Ioc] at hx ⊢
    exact ⟨⟨hx.1.1, by omega⟩, hx.2⟩
  · have hmem : u ∈ tonesAbove mask root m u := by
      simp only [tonesAbove, Finset.mem_filter, Finset.mem_Ioc]
      exact ⟨⟨by omega, le_refl u⟩, hu⟩
    have := hsub hmem
    simp only [tonesAbove, Finset.mem_filter, Finset.mem_Ioc] at this
    omega

theorem card_tonesBelow_lt {mask : BitVec 12} {root : Nat} {m t u : Int} (hm : t ≤ m) (hlt : u < t)
    (hu : isTone mask root u = true) :
    (tonesBelow mask root m t).card < (tonesBelow mask root m u).card := by
  refine Finset.card_lt_card ⟨fun x hx => ?_, fun hsub => ?_⟩
  · simp only [tonesBelow, Finset.mem_filter, Finset.mem_Ico] at hx ⊢
    exact ⟨⟨by omega, hx.1.2⟩, hx.2⟩
  · have hmem : u ∈ tonesBelow mask root m u := by
      simp only [tonesBelow, Finset.mem_filter, Finset.mem_Ico]
      exact ⟨⟨le_refl u, by omega⟩, hu⟩
    have := hsub hmem
    simp only [tonesBelow, Finset.mem_filter, Finset.mem_Ico] at this
    omega

/-- The note so many notes up is one. -/
theorem tonesAbove_unique {mask : BitVec 12} {root : Nat} {m t u : Int} (ht : m ≤ t) (hu : m ≤ u)
    (htone : isTone mask root t = true) (hutone : isTone mask root u = true)
    (hcard : (tonesAbove mask root m t).card = (tonesAbove mask root m u).card) : t = u := by
  by_contra hne
  rcases lt_or_gt_of_ne hne with hlt | hlt
  · exact absurd hcard (Nat.ne_of_lt (card_tonesAbove_lt ht hlt hutone))
  · exact absurd hcard (Nat.ne_of_gt (card_tonesAbove_lt hu hlt htone))

/-- The note so many notes down is one. -/
theorem tonesBelow_unique {mask : BitVec 12} {root : Nat} {m t u : Int} (ht : t ≤ m) (hu : u ≤ m)
    (htone : isTone mask root t = true) (hutone : isTone mask root u = true)
    (hcard : (tonesBelow mask root m t).card = (tonesBelow mask root m u).card) : t = u := by
  by_contra hne
  rcases lt_or_gt_of_ne hne with hlt | hlt
  · exact absurd hcard (Nat.ne_of_gt (card_tonesBelow_lt hu hlt htone))
  · exact absurd hcard (Nat.ne_of_lt (card_tonesBelow_lt ht hlt hutone))

/-- A walk up from a note, or of at least one step, ends at the note so many notes above. -/
theorem walk_up_iff {mask : BitVec 12} (h : mask ≠ 0) {root : Nat} {d m t : Int} (hd : 0 ≤ d)
    (hstart : 0 < d ∨ isTone mask root m = true) :
    walk mask root d m = t ↔
      isTone mask root t = true ∧ m ≤ t ∧ (tonesAbove mask root m t).card = d.toNat := by
  obtain ⟨hle, hcard⟩ := tonesAbove_iterate h root m d.toNat
  have htone := iterate_nextAbove_tone h (root := root) (m := m) (k := d.toNat)
    (hstart.imp_left (by omega))
  rw [walk, if_pos hd]
  constructor
  · rintro rfl
    exact ⟨htone, hle, hcard⟩
  · rintro ⟨htone', hle', hcard'⟩
    exact tonesAbove_unique hle hle' htone htone' (hcard.trans hcard'.symm)

/-- A walk down ends at the note so many notes below. -/
theorem walk_down_iff {mask : BitVec 12} (h : mask ≠ 0) {root : Nat} {d m t : Int} (hd : d < 0) :
    walk mask root d m = t ↔
      isTone mask root t = true ∧ t ≤ m ∧ (tonesBelow mask root m t).card = d.natAbs := by
  have hsteps : (-d).toNat = d.natAbs := by omega
  obtain ⟨hle, hcard⟩ := tonesBelow_iterate h root m d.natAbs
  have htone := iterate_nextBelow_tone h (root := root) (m := m) (k := d.natAbs) (by omega)
  rw [walk, if_neg (by omega), hsteps]
  constructor
  · rintro rfl
    exact ⟨htone, hle, hcard⟩
  · rintro ⟨htone', hle', hcard'⟩
    exact tonesBelow_unique hle hle' htone htone' (hcard.trans hcard'.symm)

/-- The notes down to a note below are some. -/
theorem lt_of_card_tonesBelow {mask : BitVec 12} {root : Nat} {m t : Int} (hle : t ≤ m) {k : Nat}
    (hcard : (tonesBelow mask root m t).card = k) (hk : k ≠ 0) : t < m := by
  rcases eq_or_lt_of_le hle with heq | hlt
  · exact absurd (hcard.symm.trans (by simp [heq, tonesBelow])) hk
  · exact hlt

theorem lt_of_card_tonesAbove {mask : BitVec 12} {root : Nat} {m t : Int} (hle : m ≤ t) {k : Nat}
    (hcard : (tonesAbove mask root m t).card = k) (hk : k ≠ 0) : m < t := by
  rcases eq_or_lt_of_le hle with heq | hlt
  · exact absurd (hcard.symm.trans (by simp [heq, tonesAbove])) hk
  · exact hlt

/-! ### Start targets (R43, R44) -/

/-- The note of a set nearest to a number, the lower of two as near (R44). -/
theorem nearestTone_iff {mask : BitVec 12} (h : mask ≠ 0) {root : Nat} {n t : Int} :
    nearestTone mask root n = t ↔ isTone mask root t = true ∧
      ∀ m : Int, isTone mask root m = true →
        (t - n).natAbs < (m - n).natAbs ∨ ((t - n).natAbs = (m - n).natAbs ∧ t ≤ m) := by
  have hspec : isTone mask root (nearestTone mask root n) = true ∧
      ∀ m : Int, isTone mask root m = true →
        (nearestTone mask root n - n).natAbs < (m - n).natAbs ∨
          ((nearestTone mask root n - n).natAbs = (m - n).natAbs ∧ nearestTone mask root n ≤ m) := by
    obtain ⟨habove, hlta, hnonea⟩ := nextAbove_spec h root n
    obtain ⟨hbelow, hltb, hnoneb⟩ := nextBelow_spec h root n
    by_cases hn : isTone mask root n = true
    · rw [nearestTone, if_pos hn]
      exact ⟨hn, fun m _ => by omega⟩
    · have houtside : ∀ m, isTone mask root m = true →
          m ≤ nextBelow mask root n ∨ nextAbove mask root n ≤ m := fun m hm => by
        by_contra hinside
        rcases lt_trichotomy m n with hlt | heq | hgt
        · simp [hnoneb m (by omega) hlt] at hm
        · exact hn (heq ▸ hm)
        · simp [hnonea m hgt (by omega)] at hm
      by_cases hnear : n - nextBelow mask root n ≤ nextAbove mask root n - n
      · rw [nearestTone, if_neg hn, if_pos hnear]
        exact ⟨hbelow, fun m hm => by have := houtside m hm; omega⟩
      · rw [nearestTone, if_neg hn, if_neg hnear]
        exact ⟨habove, fun m hm => by have := houtside m hm; omega⟩
  constructor
  · rintro rfl
    exact hspec
  · rintro ⟨htone, hnearest⟩
    have h₁ := hnearest _ hspec.1
    have h₂ := hspec.2 _ htone
    omega

/-- SCALE counts from the highest scale note at or below the sung note (R43). -/
theorem scaleTarget_iff {s : State} (h : scaleMask s s.pln.key.scale ≠ 0) (d : Int) (n : Nat) (t : Int) :
    scaleTarget s d n = t ↔ ∃ r : Int,
      isTone (scaleMask s s.pln.key.scale) s.pln.key.root r = true ∧ r ≤ n ∧
      (∀ m : Int, r < m → m ≤ n → isTone (scaleMask s s.pln.key.scale) s.pln.key.root m = false) ∧
      isTone (scaleMask s s.pln.key.scale) s.pln.key.root t = true ∧
      (0 ≤ d → r ≤ t ∧ (tonesAbove (scaleMask s s.pln.key.scale) s.pln.key.root r t).card = d.toNat) ∧
      (d < 0 → t < r ∧
        (tonesBelow (scaleMask s s.pln.key.scale) s.pln.key.root r t).card = d.natAbs) := by
  unfold scaleTarget
  generalize hmask : scaleMask s s.pln.key.scale = mask at h ⊢
  generalize s.pln.key.root = root
  obtain ⟨hr, hle, hbetween⟩ := atOrBelow_spec h root n
  rcases lt_or_ge d 0 with hd | hd
  · rw [walk_down_iff h hd]
    constructor
    · rintro ⟨htone, hbelow, hcard⟩
      exact ⟨_, hr, hle, hbetween, htone, fun hpos => by omega,
        fun _ => ⟨lt_of_card_tonesBelow hbelow hcard (by omega), hcard⟩⟩
    · rintro ⟨r, hr', hle', hbetween', htone, _, hdown⟩
      obtain rfl := atOrBelow_unique h hr' hle' hbetween'
      obtain ⟨hlt, hcard⟩ := hdown hd
      exact ⟨htone, by omega, hcard⟩
  · rw [walk_up_iff h hd (Or.inr hr)]
    constructor
    · rintro ⟨htone, habove, hcard⟩
      exact ⟨_, hr, hle, hbetween, htone, fun _ => ⟨habove, hcard⟩, fun hneg => by omega⟩
    · rintro ⟨r, hr', hle', hbetween', htone, hup, _⟩
      obtain rfl := atOrBelow_unique h hr' hle' hbetween'
      obtain ⟨habove, hcard⟩ := hup hd
      exact ⟨htone, habove, hcard⟩

/-- CHORD counts from the sung note, or takes the nearest tone (R44). -/
theorem chordTarget_iff {s : State} {c : Chord} (h : shapeMask s c.shape ≠ 0) (d : Int) (n : Nat)
    (t : Int) : chordTarget s c d n = t ↔
      isTone (shapeMask s c.shape) c.root t = true ∧
      (0 < d → (n : Int) < t ∧ (tonesAbove (shapeMask s c.shape) c.root n t).card = d.toNat) ∧
      (d < 0 → t < n ∧ (tonesBelow (shapeMask s c.shape) c.root n t).card = d.natAbs) ∧
      (d = 0 → ∀ m : Int, isTone (shapeMask s c.shape) c.root m = true →
        (t - n).natAbs < (m - n).natAbs ∨ ((t - n).natAbs = (m - n).natAbs ∧ t ≤ m)) := by
  rcases lt_trichotomy d 0 with hd | hd | hd
  · rw [chordTarget, if_neg (by omega), walk_down_iff h hd]
    constructor
    · rintro ⟨htone, hbelow, hcard⟩
      exact ⟨htone, fun hpos => by omega,
        fun _ => ⟨lt_of_card_tonesBelow hbelow hcard (by omega), hcard⟩, fun hzero => by omega⟩
    · rintro ⟨htone, _, hdown, _⟩
      obtain ⟨hlt, hcard⟩ := hdown hd
      exact ⟨htone, by omega, hcard⟩
  · rw [chordTarget, if_pos hd, nearestTone_iff h]
    constructor
    · rintro ⟨htone, hnearest⟩
      exact ⟨htone, fun hpos => by omega, fun hneg => by omega, fun _ => hnearest⟩
    · rintro ⟨htone, _, _, hnearest⟩
      exact ⟨htone, hnearest hd⟩
  · rw [chordTarget, if_neg (by omega), walk_up_iff h (by omega) (Or.inl hd)]
    constructor
    · rintro ⟨htone, habove, hcard⟩
      exact ⟨htone, fun _ => ⟨lt_of_card_tonesAbove habove hcard (by omega), hcard⟩, fun hneg => by omega,
        fun hzero => by omega⟩
    · rintro ⟨htone, hup, _, _⟩
      obtain ⟨hlt, hcard⟩ := hup hd
      exact ⟨htone, by omega, hcard⟩

/-! ### The modes' targets and moves (R43, R44, R47) -/

theorem usableChord_eq_none_iff (s : State) :
    usableChord s = none ↔ ∀ c, s.pln.chord = some c → shapeMask s c.shape = 0 := by
  unfold usableChord
  cases s.pln.chord with
  | none => simp
  | some c => by_cases hshape : shapeMask s c.shape = 0 <;> simp [hshape]

theorem usableChord_defined {s : State} {c : Chord} (hc : s.pln.chord = some c)
    (hshape : shapeMask s c.shape ≠ 0) : usableChord s = some c := by
  rw [usableChord, hc]
  exact if_neg hshape

theorem modeTarget_scale {s : State} {live : LiveMode} {n : Nat} (hmode : live.mode = .scale)
    (hsung : s.trk.sung = some n) (planned : Option Nat) :
    modeTarget s live planned = some (scaleTarget s live.parameter n) := by
  rw [modeTarget, hmode, hsung]

theorem modeTarget_chord {s : State} {live : LiveMode} {n : Nat} {c : Chord}
    (hmode : live.mode = .chord) (hsung : s.trk.sung = some n) (hchord : usableChord s = some c)
    (planned : Option Nat) :
    modeTarget s live planned = some (chordTarget s c live.parameter n) := by
  simp only [modeTarget, hmode, hsung, hchord]

theorem modeTarget_noChord {s : State} {live : LiveMode} {n : Nat} (hmode : live.mode = .chord)
    (hsung : s.trk.sung = some n) (hchord : usableChord s = none) (planned : Option Nat) :
    modeTarget s live planned = some (scaleTarget s live.fallback n) := by
  simp only [modeTarget, hmode, hsung, hchord]

/-- A move off a taken note: to the next note of a set, by a direction. -/
def moveAlong (mask : BitVec 12) (root : Nat) (direction t : Int) : Int :=
  if 0 ≤ direction then nextAbove mask root t else nextBelow mask root t

theorem moveAlong_spec {mask : BitVec 12} (h : mask ≠ 0) (root : Nat) (d t : Int) :
    isTone mask root (moveAlong mask root d t) = true ∧
    (0 ≤ d → t < moveAlong mask root d t ∧
      ∀ m, t < m → m < moveAlong mask root d t → isTone mask root m = false) ∧
    (d < 0 → moveAlong mask root d t < t ∧
      ∀ m, moveAlong mask root d t < m → m < t → isTone mask root m = false) := by
  unfold moveAlong
  split
  · obtain ⟨htone, hmoved⟩ := nextAbove_spec h root t
    exact ⟨htone, fun _ => hmoved, fun hneg => by omega⟩
  · obtain ⟨htone, hmoved⟩ := nextBelow_spec h root t
    exact ⟨htone, fun hpos => by omega, fun _ => hmoved⟩

theorem unisonMove_scale {s : State} {live : LiveMode} (hmode : live.mode = .scale) (t : Int) :
    unisonMove s live t =
      moveAlong (scaleMask s s.pln.key.scale) s.pln.key.root live.parameter t := by
  simp only [unisonMove, hmode, moveAlong]

theorem unisonMove_chord {s : State} {live : LiveMode} {c : Chord} (hmode : live.mode = .chord)
    (hchord : usableChord s = some c) (t : Int) :
    unisonMove s live t = moveAlong (shapeMask s c.shape) c.root live.parameter t := by
  simp only [unisonMove, hmode, hchord, moveAlong]

theorem unisonMove_noChord {s : State} {live : LiveMode} (hmode : live.mode = .chord)
    (hchord : usableChord s = none) (t : Int) :
    unisonMove s live t =
      moveAlong (scaleMask s s.pln.key.scale) s.pln.key.root live.fallback t := by
  simp only [unisonMove, hmode, hchord, moveAlong]

theorem unisonMove_still {s : State} {live : LiveMode} (hmode : live.mode = .fixed ∨ live.mode = .pedal)
    (t : Int) : unisonMove s live t = t := by
  rcases hmode with hmode | hmode <;> simp only [unisonMove, hmode]

/-! ### The range fold (R46) -/

/-- The fold's two moves: down from above the range, then up from below it. -/
theorem rangeFold_moves (low high t : Int) : ∃ down up : Int,
    (down = if high < t then high - (high - t) % 12 else t) ∧
    (up = if down < low then low + (down - low) % 12 else down) ∧
    rangeFold low high t = if high < up then none else some up := ⟨_, _, rfl, rfl, rfl⟩

/-- A target folded: a note of the range and of its pitch class, the nearest end's first. -/
theorem rangeFold_some {low high t u : Int} (hrange : low ≤ high) (h : rangeFold low high t = some u) :
    low ≤ u ∧ u ≤ high ∧ (u - t) % 12 = 0 ∧ (low ≤ t → t ≤ high → u = t) ∧
    (high < t → high < u + 12) ∧ (t < low → u < low + 12) := by
  obtain ⟨down, up, hdown, hup, hfold⟩ := rangeFold_moves low high t
  rw [hfold] at h
  by_cases hfails : high < up
  · simp [hfails] at h
  · rw [if_neg hfails, Option.some.injEq] at h
    omega

/-- The fold fails where the range holds no note of the pitch class alone. -/
theorem rangeFold_none {low high t u : Int} (h : rangeFold low high t = none) (hlow : low ≤ u)
    (hhigh : u ≤ high) : (u - t) % 12 ≠ 0 := by
  obtain ⟨down, up, hdown, hup, hfold⟩ := rangeFold_moves low high t
  rw [hfold] at h
  by_cases hfails : high < up
  · omega
  · simp [hfails] at h

/-- Settles O41. -/
theorem startTargetsAndRangeFold : Obligations.StartTargetsAndRangeFold := by
  refine ⟨fun s live planned t => ?_, fun low high t hrange =>
    ⟨fun u hu => rangeFold_some hrange hu, fun hnone u => rangeFold_none hnone⟩,
    fun s live low high t taken moves => ?_⟩
  · intro scale root note noChord hscale
    refine ⟨fun n hsung => ?_, ?_⟩
    · intro scaleTarget
      refine ⟨fun hmode => ?_, fun hmode hnone => ?_, fun c hmode hc hshape => ?_⟩
      · rw [modeTarget_scale hmode hsung, Option.some.injEq]
        exact scaleTarget_iff hscale _ n t
      · rw [modeTarget_noChord hmode hsung ((usableChord_eq_none_iff s).mpr hnone),
          Option.some.injEq]
        exact scaleTarget_iff hscale _ n t
      · rw [modeTarget_chord hmode hsung (usableChord_defined hc hshape), Option.some.injEq]
        exact chordTarget_iff hshape _ n t
    · intro next
      refine ⟨fun hmode => ?_, fun hmode hnone => ?_, fun c hmode hc hshape => ?_,
        fun hmode => unisonMove_still hmode t⟩
      · rw [unisonMove_scale hmode]
        exact moveAlong_spec hscale root _ t
      · rw [unisonMove_noChord hmode ((usableChord_eq_none_iff s).mpr hnone)]
        exact moveAlong_spec hscale root _ t
      · rw [unisonMove_chord hmode (usableChord_defined hc hshape)]
        exact moveAlong_spec hshape c.root _ t
  · intro check
    refine ⟨?_, ?_, ?_, fun hfree => ?_, fun htaken => ?_⟩
    · unfold foldResult
      cases rangeFold low high t <;> rfl
    · cases moves <;> rfl
    · rfl
    · exact if_neg hfree
    · exact if_pos htaken

end Sys2Proof.Machine
end

section
/-! PROOFS. Tap fetches: the words of a read, its completion, the claims held for it, the hard check, and
the moves of a stream read. -/

namespace Sys2Proof.Machine

/-! ### Fetches served by the queue (R111, R150) -/

theorem serveQueued_serves {queue : List QueueEntry} {a : Addr} {w : Word}
    (h : forwarded queue a = some w) (words : List Word) (rest : List Addr) :
    serveQueued queue words (a :: rest) = serveQueued queue (words ++ [w]) rest := by
  rw [serveQueued, h]

/-- The fetches the queue holds are served in order. -/
theorem serveQueued_append {queue : List QueueEntry} {served : List Addr} {words : List Word}
    (h : served.map (forwarded queue) = words.map some) (before : List Word) (left : List Addr) :
    serveQueued queue before (served ++ left) = serveQueued queue (before ++ words) left := by
  induction served generalizing words before with
  | nil =>
    obtain rfl : words = [] := by simpa using h.symm
    rw [List.append_nil]
    rfl
  | cons a rest ih =>
    cases words with
    | nil => simp at h
    | cons w ws =>
      rw [List.map_cons, List.map_cons, List.cons.injEq] at h
      obtain ⟨hw, hrest⟩ := h
      rw [List.cons_append, serveQueued_serves hw, ih hrest, List.append_assoc]
      rfl

theorem serveQueued_waits {queue : List QueueEntry} {b : Addr} (h : forwarded queue b = none)
    (words : List Word) (rest : List Addr) :
    serveQueued queue words (b :: rest) = (words, b :: rest) := by
  rw [serveQueued, h]

/-! ### The read's end (R76, R104 to R108) -/

theorem applyMoves_eq (s : State) (moved : List (Fin 4 × VoiceRecord)) : applyMoves s moved =
    { s with vce := { s.vce with
      voices := moved.foldl (fun vs m => vs.set m.1 m.2) s.vce.voices } } := by
  unfold applyMoves
  induction moved generalizing s with
  | nil => rfl
  | cons m rest ih =>
    rw [List.foldl_cons, ih]
    rfl

/-- A claim taken keeps the bus path. -/
theorem applyClaims_bus (s : State) (claims : List (Fin 4 × Claim)) :
    (applyClaims s claims).bus = s.bus := by
  unfold applyClaims
  induction claims generalizing s with
  | nil => rfl
  | cons c rest ih =>
    rw [List.foldl_cons, ih]
    rfl

/-- A completed read holds no cycle. -/
theorem completeTap_cycle (s : State) (r : TapRead) : (completeTap s r).bus.cycle = none := by
  unfold completeTap
  split <;> rw [applyClaims_bus, applyMoves_eq] <;> rfl

theorem settleTap_waits {s : State} {r : TapRead} {w : VoiceWork} (h : r.work = some w) :
    settleTap (s, r) = { s with bus := { s.bus with cycle := some (.tap r) } } := by
  rw [settleTap, h]

theorem settleTap_completes {s : State} {r : TapRead} (h : r.work = none) :
    settleTap (s, r) = completeTap s r := by
  rw [settleTap, h]

/-- The events of a clip, where there are any, rewrite the Report Unit alone. -/
theorem raiseEvents_clip (s : State) (e : Event) (quiet : Bool) :
    raiseEvents s (if quiet then [] else [e]) =
      { s with rpt := if quiet then s.rpt else (raiseEvent s e).rpt } := by
  cases quiet
  · exact raiseEvent_rptOnly s e
  · rfl

/-- A mix read's end (R106, R108). -/
theorem completeTap_mix (s : State) {r : TapRead} (hmix : 8 ≤ r.offset) :
    let clips : Prop :=
      saturateFormat (inputFormat s) (saturate24 r.total) ≠ r.total
    completeTap s r = r.claims.foldl (fun t c => takeClaim t c.1 c.2) { s with
      pd := some (sampleWord (inputFormat s) (saturateFormat (inputFormat s) (saturate24 r.total)))
      rpt := if clips ∧ s.vce.mixClipped = false then (raiseEvent s (clipEvent r none r.total)).rpt
        else s.rpt
      vce := ⟨r.moved.foldl (fun vs m => vs.set m.1 m.2) s.vce.voices,
        s.vce.mixClipped || decide clips⟩
      bus := { s.bus with cycle := none } } := by
  intro clips
  have hisMix : r.isMix = true := decide_eq_true hmix
  have hclip : mixClip s r = { s with
      rpt := if clips ∧ s.vce.mixClipped = false then
        (raiseEvent s (clipEvent r none r.total)).rpt else s.rpt
      vce := ⟨s.vce.voices, s.vce.mixClipped || decide clips⟩ } := by
    unfold mixClip
    by_cases hclips : clips
    · rw [if_neg hclips]
      dsimp only
      rw [raiseEvents_clip]
      cases hquiet : s.vce.mixClipped <;> simp [hclips]
    · rw [if_pos (not_not.mp hclips)]
      simp [hclips]
  unfold completeTap
  rw [if_pos hisMix, hclip, applyMoves_eq]
  rfl

/-- A voice read's end where nothing saturates (R104, R105). -/
theorem completeTap_voice (s : State) {r : TapRead} (hvoice : r.offset < 8)
    (hfits : saturateFormat (inputFormat s) r.total = r.total) :
    completeTap s r = r.claims.foldl (fun t c => takeClaim t c.1 c.2) { s with
      pd := some (sampleWord (inputFormat s) (saturateFormat (inputFormat s) r.total))
      vce := { s.vce with voices := r.moved.foldl (fun vs m => vs.set m.1 m.2) s.vce.voices }
      bus := { s.bus with cycle := none } } := by
  have hisVoice : ¬ r.isMix = true := by
    rw [TapRead.isMix, decide_eq_true_iff]
    omega
  have hclip : formatClip s r = (s, r.moved) := if_pos hfits
  unfold completeTap
  rw [if_neg hisVoice, hclip, applyMoves_eq]
  rfl

/-- A voice read's end where the format saturates (R72). -/
theorem completeTap_clipped (s : State) {r : TapRead} {v : Fin 4} {m : VoiceRecord}
    (hvoice : r.offset < 8) (hmoved : r.moved = [(v, m)])
    (hclips : saturateFormat (inputFormat s) r.total ≠ r.total) :
    completeTap s r = r.claims.foldl (fun t c => takeClaim t c.1 c.2) { s with
      pd := some (sampleWord (inputFormat s) (saturateFormat (inputFormat s) r.total))
      rpt := if m.clipped then s.rpt else (raiseEvent s (clipEvent r (some v) r.total)).rpt
      vce := { s.vce with voices := s.vce.voices.set v { m with clipped := true } }
      bus := { s.bus with cycle := none } } := by
  have hisVoice : ¬ r.isMix = true := by
    rw [TapRead.isMix, decide_eq_true_iff]
    omega
  have hclip : formatClip s r = ({ s with
      rpt := if m.clipped then s.rpt else (raiseEvent s (clipEvent r (some v) r.total)).rpt },
      [(v, { m with clipped := true })]) := by
    unfold formatClip
    rw [if_neg hclips, hmoved, List.flatMap_singleton]
    rw [clipEvents, raiseEvents_clip]
    rfl
  unfold completeTap
  rw [if_neg hisVoice, hclip, applyMoves_eq]
  rfl

/-! ### A fetch returned (R111) -/

/-- A fetch that returns the last word the queue cannot serve: what the read does next. -/
theorem continueTap_next {s : State} {r : TapRead} {w : VoiceWork} {a : Addr}
    {served left : List Addr} {words : List Word} (hwork : r.work = some w)
    (hleft : w.left = a :: served ++ left)
    (hserved : served.map (forwarded s.bus.queue) = words.map some) (word : Word) :
    (∀ b rest, left = b :: rest → forwarded s.bus.queue b = none →
      continueTap s r word = { s with bus := { s.bus with cycle := some (.tap { r with
        work := some { w with words := w.words ++ [word] ++ words, left := left } }) } }) ∧
    (left = [] →
      let finished := finishVoice s r { w with words := w.words ++ [word] ++ words, left := [] }
      continueTap s r word = settleTap (runVoices r.todo finished.1 finished.2)) := by
  have hqueue : serveQueued s.bus.queue (w.words ++ [word]) (w.left.drop 1) =
      serveQueued s.bus.queue (w.words ++ [word] ++ words) left := by
    rw [hleft]
    exact serveQueued_append hserved _ _
  unfold continueTap
  rw [hwork]
  simp only [VoiceWork.served, hqueue]
  refine ⟨fun b rest hb hmemory => ?_, fun hnone => ?_⟩
  · rw [hb, serveQueued_waits hmemory]
    rfl
  · rw [hnone]
    rfl

/-- The completion of a tap fetch whose read is in flight. -/
theorem exec_tapFetch {s : State} {r : TapRead} {a : Addr}
    (hport : s.bus.port = some ⟨.tapFetch a, true⟩) (hcycle : s.bus.cycle = some (.tap r)) :
    exec .tapFetch s = .next (grant (afterTapFetch (continueTap
      { s with pd := none, bus := { s.bus with port := none } } r (loadWord s a)))) := by
  have hheld : heldWriteReady s = false := by simp [heldWriteReady, hcycle]
  have hfinish : finishTapFetch ⟨.tapFetch a, true⟩ (freePort (beginStep s)) =
      some (afterTapFetch (continueTap (freePort (beginStep s)) r (loadWord s a))) := by
    have hfreed : (freePort (beginStep s)).bus.cycle = some (.tap r) := hcycle
    simp only [finishTapFetch, hfreed]
    rfl
  exact portStep_done hport hheld hfinish

/-- A read still held for a fetch leaves the port to it; a completed one to a record that is ready. -/
theorem afterTapFetch_settle (x : State × TapRead) : afterTapFetch (settleTap x) =
    if x.2.work = none then startReadyRecord (settleTap x) else settleTap x := by
  obtain ⟨s, r⟩ := x
  by_cases hwork : r.work = none
  · rw [if_pos hwork, settleTap_completes hwork, afterTapFetch, completeTap_cycle]
  · obtain ⟨w, hw⟩ := Option.ne_none_iff_exists'.mp hwork
    rw [if_neg hwork, settleTap_waits hw]
    rfl

/-! ### Claims for a held record (R76) -/

theorem handClaim_tap {s : State} {r : TapRead} (h : s.bus.cycle = some (.tap r)) (v : Fin 4)
    (c : Claim) : handClaim s v c =
      if 8 ≤ r.offset ∨ r.offset % 4 = v.val then
        { s with bus := { s.bus with cycle := some (.tap { r with claims := r.claims ++ [(v, c)] }) } }
      else takeClaim s v c := by
  unfold handClaim
  rw [h]
  simp only [TapRead.holds, decide_eq_true_eq]

/-! ### The hard check (R84, R85) -/

theorem insideHard_iff (s : State) (p : Position) : insideHard s p = true ↔
    2 ≤ (s.cap.c - p.extractLsb' 16 32).toInt ∧
      (s.cap.c - p.extractLsb' 16 32).toInt ≤ (inputSize s : Int) - 64 := decide_eq_true_iff

/-- The hard check of a steady voice (R84). -/
theorem hardCheck_steady {s : State} {r : VoiceRecord} {p : Position} (hp : r.p = some p)
    (hx : r.xfade = none) : hardCheck s r =
      if insideHard s p then (r, [])
      else ({ r with p := some (centrePosition s), splicePending := false },
        [⟨3, wholeLag s.cap.c p⟩]) := by
  simp only [hardCheck, hp, hx, hardCheckSteady]

/-- The hard check of a crossfading voice (R85). -/
theorem hardCheck_crossfading {s : State} {r : VoiceRecord} {p : Position} {x : Crossfade}
    (hp : r.p = some p) (hx : r.xfade = some x) :
    let cut (q : Position) : VoiceRecord :=
      { r with p := some q, xfade := none, splicePending := false }
    hardCheck s r =
      if insideHard s p then
        if insideHard s x.q then (r, []) else (cut p, [⟨2, wholeLag s.cap.c x.q⟩])
      else if insideHard s x.q then (cut x.q, [⟨1, wholeLag s.cap.c p⟩])
      else (cut (centrePosition s), [⟨1, wholeLag s.cap.c p⟩, ⟨3, wholeLag s.cap.c x.q⟩]) := by
  intro cut
  have hcut : cut p = { r with xfade := none, splicePending := false } := by
    change ({ r with p := some p, xfade := none, splicePending := false } : VoiceRecord) = _
    rw [← hp]
  rw [hcut]
  simp only [hardCheck, hp, hx]
  by_cases hfirst : insideHard s p = true
  · rw [if_pos hfirst, if_pos hfirst]
  · rw [if_neg hfirst, if_neg hfirst, hardCheckSteady]
    by_cases hsecond : insideHard s x.q = true
    · rw [if_pos hsecond, if_pos hsecond]
    · rw [if_neg hsecond, if_neg hsecond]

end Sys2Proof.Machine
end

section
/-! PROOFS. The moves of a stream read: the advance, the fade, and the splices of the soft check. -/

namespace Sys2Proof.Machine

/-! ### The advance and the fade (R64, R89) -/

theorem advancePositions_steady {r : VoiceRecord} {p : Position} (hp : r.p = some p)
    (hx : r.xfade = none) :
    advancePositions r = { r with p := some (p + BitVec.ofNat 48 r.ratio) } ∧
    endsCrossfade r = false := by
  constructor
  · simp only [advancePositions, hx, hp, Option.map_some]
  · simp only [endsCrossfade, hx]

theorem advancePositions_crossfading {r : VoiceRecord} {p : Position} {x : Crossfade}
    (hp : r.p = some p) (hx : r.xfade = some x) :
    let step : Position := BitVec.ofNat 48 r.ratio
    (x.k < x.length → endsCrossfade r = false ∧ advancePositions r = { r with
      p := some (p + step), xfade := some { x with q := x.q + step, k := x.k + 1 } }) ∧
    (x.length ≤ x.k → endsCrossfade r = true ∧
      advancePositions r = { r with p := some (x.q + step), xfade := none }) := by
  intro step
  refine ⟨fun hgoes => ⟨?_, ?_⟩, fun hends => ⟨?_, ?_⟩⟩
  · simp only [endsCrossfade, hx, decide_eq_false_iff_not]
    omega
  · simp only [advancePositions, hx, hp, if_pos hgoes, Option.map_some]
    rfl
  · simp only [endsCrossfade, hx, decide_eq_true_eq]
    exact hends
  · simp only [advancePositions, hx, if_neg (Nat.not_lt.mpr hends)]
    rfl

/-- The advance moves positions alone. -/
theorem advancePositions_fields (r : VoiceRecord) :
    (advancePositions r).state = r.state ∧ (advancePositions r).fade = r.fade ∧
    (advancePositions r).enable = r.enable ∧ (advancePositions r).ratio = r.ratio ∧
    (advancePositions r).splicePending = r.splicePending := by
  unfold advancePositions
  dsimp only
  split
  · exact ⟨rfl, rfl, rfl, rfl, rfl⟩
  · split <;> exact ⟨rfl, rfl, rfl, rfl, rfl⟩

/-- The fade leaves ratio and pending splice alone while the voice keeps a position. -/
theorem fadeStep_fields (xf : Nat) {r : VoiceRecord} (h : (fadeStep xf r).p ≠ none) :
    (fadeStep xf r).ratio = r.ratio ∧ (fadeStep xf r).splicePending = r.splicePending := by
  unfold fadeStep at h ⊢
  split
  · exact ⟨rfl, rfl⟩
  · exact ⟨rfl, rfl⟩
  · exact ⟨rfl, rfl⟩
  · exact ⟨rfl, rfl⟩
  · rename_i hleaving
    rw [hleaving] at h
    dsimp only at h
    split
    · rename_i hend
      rw [if_pos hend] at h
      exact absurd rfl h
    · exact ⟨rfl, rfl⟩

theorem fadeStep_entering {xf : Nat} {r : VoiceRecord} (h : r.state = .entering) :
    fadeStep xf r = { r with
      fade := min xf (r.fade + 1)
      state := if xf ≤ r.fade + 1 then .sounding else .entering } := by
  simp only [fadeStep, h]

theorem fadeStep_leaving {xf : Nat} {r : VoiceRecord} (h : r.state = .leaving) (hfade : 2 ≤ r.fade) :
    fadeStep xf r = { r with fade := r.fade - 1 } := by
  have hlasts : ¬ r.fade - 1 = 0 := by omega
  simp only [fadeStep, h, if_neg hlasts]

theorem fadeStep_left {xf : Nat} {r : VoiceRecord} (h : r.state = .leaving) (hfade : r.fade ≤ 1) :
    fadeStep xf r = { r with
      fade := 0, p := none, xfade := none, splicePending := false
      state := if r.enable then .parked else .silent } := by
  have hends : r.fade - 1 = 0 := by omega
  simp only [fadeStep, h, if_pos hends, dropPositions]

theorem fadeStep_still {xf : Nat} {r : VoiceRecord} (hentering : r.state ≠ .entering)
    (hleaving : r.state ≠ .leaving) : fadeStep xf r = r := by
  unfold fadeStep
  split
  · rfl
  · rfl
  · rfl
  · contradiction
  · contradiction

/-! ### The soft check (R90 to R94) -/

theorem softCheck_ended {s : State} {period : Option Nat} {ended : Bool} {r : VoiceRecord}
    (h : r.p = none) : softCheck s period ended r = r := by
  rw [softCheck, h]

/-- The comparison of R90. -/
theorem softNeed_eq (s : State) (ratio : Nat) (p : Position) :
    let lag : Int := exactLag s.cap.c p
    let low : Prop := lag < 65536 * (s.setup.active.general.lagLow.toNat : Int) ∧ 65536 < ratio
    let high : Prop := 65536 * (s.setup.active.general.lagHigh.toNat : Int) < lag ∧ ratio < 65536
    (low → softNeed s ratio p = some .low) ∧ (high → softNeed s ratio p = some .high) ∧
    (¬ low → ¬ high → softNeed s ratio p = none) := by
  intro lag low high
  refine ⟨fun hlow => if_pos hlow, fun hhigh => ?_, fun hlow hhigh => ?_⟩
  · have hnot : ¬ low := fun hlow => by
      have := hlow.2
      have := hhigh.2
      omega
    exact (if_neg hnot).trans (if_pos hhigh)
  · exact (if_neg hlow).trans (if_neg hhigh)

/-- A crossfading voice that needs a splice has it pending (R93). -/
theorem softCheck_crossfading {s : State} {period : Option Nat} {ended : Bool} {r : VoiceRecord}
    {x : Crossfade} (hp : r.p ≠ none) (hx : r.xfade = some x) :
    softCheck s period ended r =
      { r with splicePending := r.splicePending || (softNeed s r.ratio x.q).isSome } := by
  obtain ⟨p, hp⟩ := Option.ne_none_iff_exists'.mp hp
  cases hneed : softNeed s r.ratio x.q with
  | none =>
    have hkept : softCheck s period ended r = r := by simp only [softCheck, hp, hx, hneed]
    rw [hkept, Option.isSome_none, Bool.or_false]
  | some way =>
    have hpending : softCheck s period ended r = { r with splicePending := true } := by
      simp only [softCheck, hp, hx, hneed]
    rw [hpending, Option.isSome_some, Bool.or_true]

/-- A steady voice's soft check: the pending splice where its crossfade has just ended, else the check of
the lag window. -/
theorem softCheck_steady {s : State} {period : Option Nat} {ended : Bool} {r : VoiceRecord}
    {p : Position} (hp : r.p = some p) (hx : r.xfade = none) :
    softCheck s period ended r =
      if ended = true ∧ r.splicePending = true then pendingSplice s period p r
      else softCheckSteady s period p r := by
  simp only [softCheck, hp, hx, Bool.and_eq_true]

theorem softCheckSteady_eq {s : State} {period : Option Nat} {p : Position} {r : VoiceRecord} :
    (∀ way, softNeed s r.ratio p = some way →
      softCheckSteady s period p r = startSplice s period way p r) ∧
    (softNeed s r.ratio p = none → softCheckSteady s period p r = r) := by
  refine ⟨fun way h => ?_, fun h => ?_⟩
  · rw [softCheckSteady, h]
  · rw [softCheckSteady, h]

/-! ### The fewest jumps (R92) -/

/-- The fewest steps that cover a count. -/
theorem ceilDivide_spec {step : Nat} (h : 0 < step) (x : Nat) :
    x ≤ ceilDivide x step * step ∧ ∀ k < ceilDivide x step, k * step < x := by
  have hdivided := Nat.div_add_mod (x + step - 1) step
  have hrest := Nat.mod_lt (x + step - 1) h
  have hcomm : ceilDivide x step * step = step * ((x + step - 1) / step) := Nat.mul_comm _ _
  refine ⟨by rw [hcomm]; omega, fun k hk => ?_⟩
  have hstep : (k + 1) * step ≤ ceilDivide x step * step := Nat.mul_le_mul_right step hk
  rw [Nat.succ_mul, hcomm] at hstep
  omega

/-- A splice back goes the fewest jumps that bring the lag to LAG_CENTER or past it (R92). -/
theorem startSplice_low (s : State) (period : Option Nat) (p : Position) (r : VoiceRecord)
    (hjump : 0 < jumpLength s.setup.active.general period) :
    let lag : Int := exactLag s.cap.c p
    let jump : Nat := jumpLength s.setup.active.general period
    let centre : Int := 65536 * (s.setup.active.general.lagCenter.toNat : Int)
    ∃ m : Nat, startSplice s period .low p r = { r with
        xfade := some ⟨p - BitVec.ofNat 48 (m * (65536 * jump)), 1, s.setup.active.general.xf.toNat⟩
        splicePending := false } ∧
      centre ≤ lag + m * (65536 * jump) ∧ ∀ k < m, lag + k * (65536 * jump) < centre := by
  intro lag jump centre
  obtain ⟨hcovers, hfewest⟩ := ceilDivide_spec (step := 65536 * jump) (by omega) (-(lag - centre)).toNat
  refine ⟨ceilDivide (-(lag - centre)).toNat (65536 * jump), rfl, ?_, fun k hk => ?_⟩
  · generalize ceilDivide (-(lag - centre)).toNat (65536 * jump) = m at hcovers
    have hcast : ((m * (65536 * jump) : Nat) : Int) = m * (65536 * jump) := by push_cast; ring
    omega
  · have hshort := hfewest k hk
    have hcast : ((k * (65536 * jump) : Nat) : Int) = k * (65536 * jump) := by push_cast; ring
    omega

/-- A splice ahead goes the fewest jumps that bring the lag to LAG_CENTER or past it (R92). -/
theorem startSplice_high (s : State) (period : Option Nat) (p : Position) (r : VoiceRecord)
    (hjump : 0 < jumpLength s.setup.active.general period) :
    let lag : Int := exactLag s.cap.c p
    let jump : Nat := jumpLength s.setup.active.general period
    let centre : Int := 65536 * (s.setup.active.general.lagCenter.toNat : Int)
    ∃ m : Nat, startSplice s period .high p r = { r with
        xfade := some ⟨p + BitVec.ofNat 48 (m * (65536 * jump)), 1, s.setup.active.general.xf.toNat⟩
        splicePending := false } ∧
      lag - m * (65536 * jump) ≤ centre ∧ ∀ k < m, centre < lag - k * (65536 * jump) := by
  intro lag jump centre
  obtain ⟨hcovers, hfewest⟩ := ceilDivide_spec (step := 65536 * jump) (by omega) (lag - centre).toNat
  refine ⟨ceilDivide (lag - centre).toNat (65536 * jump), rfl, ?_, fun k hk => ?_⟩
  · generalize ceilDivide (lag - centre).toNat (65536 * jump) = m at hcovers
    have hcast : ((m * (65536 * jump) : Nat) : Int) = m * (65536 * jump) := by push_cast; ring
    omega
  · have hshort := hfewest k hk
    have hcast : ((k * (65536 * jump) : Nat) : Int) = k * (65536 * jump) := by push_cast; ring
    omega

/-- A pending splice goes by the side of LAG_CENTER its lag lies on (R94). -/
theorem pendingSplice_eq (s : State) (period : Option Nat) (p : Position) (r : VoiceRecord) :
    let lag : Int := exactLag s.cap.c p
    let centre : Int := 65536 * (s.setup.active.general.lagCenter.toNat : Int)
    (lag < centre → pendingSplice s period p r = startSplice s period .low p r) ∧
    (centre < lag → pendingSplice s period p r = startSplice s period .high p r) ∧
    (lag = centre → pendingSplice s period p r = { r with splicePending := false }) := by
  intro lag centre
  refine ⟨fun h => ?_, fun h => ?_, fun h => ?_⟩
  · have hbefore : lag - centre < 0 := by omega
    exact if_pos hbefore
  · have hbefore : ¬ lag - centre < 0 := by omega
    have hpast : 0 < lag - centre := by omega
    exact (if_neg hbefore).trans (if_pos hpast)
  · have hbefore : ¬ lag - centre < 0 := by omega
    have hpast : ¬ 0 < lag - centre := by omega
    exact (if_neg hbefore).trans (if_neg hpast)

/-! ### A stream read's moves together (R83) -/

/-- The soft check of a voice that kept a position, by the lag window and the crossfade just ended. -/
theorem softCheck_spec (s : State) (period : Option Nat) (ended : Bool) (t : VoiceRecord)
    (hjump : 0 < jumpLength s.setup.active.general period) (hp : t.p ≠ none) :
    let g := s.setup.active.general
    let lag (x : Position) : Int := exactLag s.cap.c x
    let low (x : Position) : Prop := lag x < 65536 * (g.lagLow.toNat : Int) ∧ 65536 < t.ratio
    let high (x : Position) : Prop := 65536 * (g.lagHigh.toNat : Int) < lag x ∧ t.ratio < 65536
    let jump : Nat := jumpLength g period
    let centre : Int := 65536 * (g.lagCenter.toNat : Int)
    let spliced (q : Position) (t' : VoiceRecord) : Prop :=
      t' = { t with xfade := some ⟨q, 1, g.xf.toNat⟩, splicePending := false }
    let splicesLow (x : Position) (t' : VoiceRecord) : Prop :=
      ∃ m : Nat, spliced (x - BitVec.ofNat 48 (m * (65536 * jump))) t' ∧
        centre ≤ lag x + m * (65536 * jump) ∧ ∀ k < m, lag x + k * (65536 * jump) < centre
    let splicesHigh (x : Position) (t' : VoiceRecord) : Prop :=
      ∃ m : Nat, spliced (x + BitVec.ofNat 48 (m * (65536 * jump))) t' ∧
        lag x - m * (65536 * jump) ≤ centre ∧ ∀ k < m, centre < lag x - k * (65536 * jump)
    (∀ x, t.xfade = some x → softCheck s period ended t = { t with
      splicePending := t.splicePending || decide (low x.q ∨ high x.q) }) ∧
    ∀ q, t.p = some q → t.xfade = none →
      (ended = true → t.splicePending = true →
        (lag q < centre → splicesLow q (softCheck s period ended t)) ∧
        (centre < lag q → splicesHigh q (softCheck s period ended t)) ∧
        (lag q = centre → softCheck s period ended t = { t with splicePending := false })) ∧
      (ended = false ∨ t.splicePending = false →
        (low q → splicesLow q (softCheck s period ended t)) ∧
        (high q → splicesHigh q (softCheck s period ended t)) ∧
        (¬ low q → ¬ high q → softCheck s period ended t = t)) := by
  intro g lag low high jump centre spliced splicesLow splicesHigh
  refine ⟨fun x hx => ?_, fun q hq hx => ⟨fun hended hpending => ?_, fun hnot => ?_⟩⟩
  · obtain ⟨hlow, hhigh, hneither⟩ := softNeed_eq s t.ratio x.q
    have hneed : (softNeed s t.ratio x.q).isSome = decide (low x.q ∨ high x.q) := by
      by_cases hl : low x.q
      · simp [hlow hl, hl]
      · by_cases hh : high x.q
        · simp [hhigh hh, hh]
        · simp [hneither hl hh, hl, hh]
    rw [softCheck_crossfading hp hx, hneed]
  · obtain ⟨hlow, hhigh, hcentre⟩ := pendingSplice_eq s period q t
    have hcheck := (softCheck_steady (s := s) (period := period) (ended := ended) hq hx).trans
      (if_pos ⟨hended, hpending⟩)
    rw [hcheck]
    refine ⟨fun h => ?_, fun h => ?_, hcentre⟩
    · rw [hlow h]
      exact startSplice_low s period q t hjump
    · rw [hhigh h]
      exact startSplice_high s period q t hjump
  · obtain ⟨hlow, hhigh, hneither⟩ := softNeed_eq s t.ratio q
    have hsteady : ¬ (ended = true ∧ t.splicePending = true) := fun ⟨hended, hpending⟩ => by
      rcases hnot with h | h
      · simp [h] at hended
      · simp [h] at hpending
    have hcheck := (softCheck_steady (s := s) (period := period) (ended := ended) hq hx).trans
      (if_neg hsteady)
    obtain ⟨hway, hstays⟩ := softCheckSteady_eq (s := s) (period := period) (p := q) (r := t)
    rw [hcheck]
    refine ⟨fun h => ?_, fun h => ?_, fun hl hh => hstays (hneither hl hh)⟩
    · rw [hway .low (hlow h)]
      exact startSplice_low s period q t hjump
    · rw [hway .high (hhigh h)]
      exact startSplice_high s period q t hjump

/-- A stream read's moves: the advance, the fade, then the soft check (R83). -/
theorem streamMoves_eq (s : State) (period : Option Nat) (r : VoiceRecord) :
    streamMoves s period r = softCheck s period (endsCrossfade r)
      (fadeStep s.setup.active.general.xf.toNat (advancePositions r)) := rfl

/-- The soft check of the record a stream read has advanced and faded, in that read's ratio and pending
splice. -/
theorem streamMoves_spec (s : State) (period : Option Nat) (r : VoiceRecord)
    (hjump : 0 < jumpLength s.setup.active.general period)
    (hp : (fadeStep s.setup.active.general.xf.toNat (advancePositions r)).p ≠ none) :
    let g := s.setup.active.general
    let t := fadeStep s.setup.active.general.xf.toNat (advancePositions r)
    let lag (x : Position) : Int := exactLag s.cap.c x
    let low (x : Position) : Prop := lag x < 65536 * (g.lagLow.toNat : Int) ∧ 65536 < r.ratio
    let high (x : Position) : Prop := 65536 * (g.lagHigh.toNat : Int) < lag x ∧ r.ratio < 65536
    let jump : Nat := jumpLength g period
    let centre : Int := 65536 * (g.lagCenter.toNat : Int)
    let spliced (q : Position) (t' : VoiceRecord) : Prop :=
      t' = { t with xfade := some ⟨q, 1, g.xf.toNat⟩, splicePending := false }
    let splicesLow (x : Position) (t' : VoiceRecord) : Prop :=
      ∃ m : Nat, spliced (x - BitVec.ofNat 48 (m * (65536 * jump))) t' ∧
        centre ≤ lag x + m * (65536 * jump) ∧ ∀ k < m, lag x + k * (65536 * jump) < centre
    let splicesHigh (x : Position) (t' : VoiceRecord) : Prop :=
      ∃ m : Nat, spliced (x + BitVec.ofNat 48 (m * (65536 * jump))) t' ∧
        lag x - m * (65536 * jump) ≤ centre ∧ ∀ k < m, centre < lag x - k * (65536 * jump)
    (∀ x, t.xfade = some x → streamMoves s period r = { t with
      splicePending := t.splicePending || decide (low x.q ∨ high x.q) }) ∧
    ∀ q, t.p = some q → t.xfade = none →
      (endsCrossfade r = true → r.splicePending = true →
        (lag q < centre → splicesLow q (streamMoves s period r)) ∧
        (centre < lag q → splicesHigh q (streamMoves s period r)) ∧
        (lag q = centre → streamMoves s period r = { t with splicePending := false })) ∧
      (endsCrossfade r = false ∨ r.splicePending = false →
        (low q → splicesLow q (streamMoves s period r)) ∧
        (high q → splicesHigh q (streamMoves s period r)) ∧
        (¬ low q → ¬ high q → streamMoves s period r = t)) := by
  rw [streamMoves_eq]
  have hspec := softCheck_spec s period (endsCrossfade r) _ hjump hp
  obtain ⟨_, _, _, hratio, hpending⟩ := advancePositions_fields r
  obtain ⟨hratio', hpending'⟩ := fadeStep_fields _ hp
  rw [hratio.symm, hpending.symm, hratio'.symm, hpending'.symm]
  exact hspec

/-- Settles O54. -/
theorem tapFetches : Obligations.TapFetches := by
  refine ⟨fun s r w a served left words hport hcycle hwork hleft hserved hhigh => ?_,
    fun u r => ⟨fun w hwork => settleTap_waits hwork, fun hwork => ?_⟩,
    fun s v c r hcycle => ⟨fun h => ?_, fun h => ?_⟩, fun s r p hp => ?_,
    fun s period r p hp => ?_⟩
  · obtain ⟨hnext, hlast⟩ := continueTap_next
      (s := { s with pd := none, bus := { s.bus with port := none } }) hwork hleft hserved
      (loadWord s a)
    have hexec := exec_tapFetch hport hcycle
    intro all
    refine ⟨fun b rest hb hmemory => ?_, fun hnone => ?_⟩
    · rw [hnext b rest hb hmemory] at hexec
      have hgrant := grant_choice (s := { s with
          pd := none
          bus := { s.bus with
            port := none
            cycle := some (.tap { r with work := some { w with words := all, left := left } }) } })
        hhigh rfl (chooseAccess_ranked (k := .tapFetch b) (by rw [hb]; rfl))
      exact hexec.trans (congrArg Host.Outcome.next hgrant)
    · intro freed finished x
      have hend : continueTap freed r (loadWord s a) = settleTap x := hlast hnone
      rw [hend, afterTapFetch_settle] at hexec
      refine ⟨fun hheld => ?_, fun hfinished => ?_⟩
      · rwa [if_neg hheld] at hexec
      · rwa [if_pos hfinished] at hexec
  · intro format detail clip completes
    have hcomplete := settleTap_completes (s := u) hwork
    refine ⟨fun hmix => ?_, fun hvoice => ⟨fun hfits => ?_, fun v m hmoved hclips => ?_⟩⟩
    · exact hcomplete.trans (completeTap_mix u hmix)
    · exact hcomplete.trans (completeTap_voice u hvoice hfits)
    · exact hcomplete.trans (completeTap_clipped u hvoice hmoved hclips)
  · rw [handClaim_tap hcycle, if_pos h]
  · rw [handClaim_tap hcycle, if_neg h]
  · intro lag inside centre
    refine ⟨fun hx => ?_, fun x hx => ?_⟩
    · have hcheck := hardCheck_steady (s := s) hp hx
      refine ⟨fun hin => ?_, fun hout => ?_⟩
      · exact hcheck.trans (if_pos ((insideHard_iff s p).mpr hin))
      · exact hcheck.trans (if_neg fun h => hout ((insideHard_iff s p).mp h))
    · have hcheck := hardCheck_crossfading (s := s) hp hx
      have hin := fun q => (insideHard_iff s q).mpr
      have hout := fun q (h : ¬ inside q) h' => h ((insideHard_iff s q).mp h')
      intro cut
      refine ⟨fun h₁ h₂ => ?_, fun h₁ h₂ => ?_, fun h₁ h₂ => ?_, fun h₁ h₂ => ?_⟩
      · exact hcheck.trans ((if_pos (hin p h₁)).trans (if_pos (hin x.q h₂)))
      · exact hcheck.trans ((if_pos (hin p h₁)).trans (if_neg (hout x.q h₂)))
      · exact hcheck.trans ((if_neg (hout p h₁)).trans (if_pos (hin x.q h₂)))
      · exact hcheck.trans ((if_neg (hout p h₁)).trans (if_neg (hout x.q h₂)))
  · intro g xf step lag low high jump centre spliced splicesLow splicesHigh
    obtain ⟨hstate, hfade, henable, _, _⟩ := advancePositions_fields r
    refine ⟨advancePositions r, fadeStep xf (advancePositions r), streamMoves_eq s period r,
      advancePositions_steady hp, fun x hx => advancePositions_crossfading hp hx,
      fun hentering => ?_, fun hleaving hlasts => ?_, fun hleaving hends => ⟨?_, ?_⟩,
      fun hentering hleaving => ?_, fun hjump hkept => ?_⟩
    · rw [fadeStep_entering (hstate.trans hentering), hfade]
    · rw [fadeStep_leaving (hstate.trans hleaving) (by omega), hfade]
    · rw [fadeStep_left (hstate.trans hleaving) (by omega), henable]
    · rw [streamMoves_eq]
      exact softCheck_ended (by rw [fadeStep_left (hstate.trans hleaving) (by omega)])
    · exact fadeStep_still (by rwa [hstate]) (by rwa [hstate])
    · exact streamMoves_spec s period r hjump hkept

end Sys2Proof.Machine
end

section
/-! PROOFS. Samples in words, saturation, and the value a read rounds to. -/

namespace Sys2Proof.Machine

/-! ### Samples and words (R103) -/

/-- The bits of a sample read from a word. -/
theorem sampleOf_bits (w : Word) {i : Nat} (hi : i < 24) :
    (sampleOf .s16r w).getLsbD i = w.getLsbD (min i 15) ∧
    (sampleOf .s24r w).getLsbD i = w.getLsbD i ∧
    (sampleOf .s24l w).getLsbD i = w.getLsbD (i + 8) := by
  refine ⟨?_, ?_, ?_⟩
  · simp only [sampleOf, BitVec.getLsbD_signExtend, BitVec.msb_eq_getLsbD_last,
      BitVec.getLsbD_extractLsb', hi, decide_true, Bool.true_and, Nat.zero_add]
    by_cases hlow : i < 16
    · rw [if_pos hlow, decide_eq_true hlow, Bool.true_and, Nat.min_eq_left (by omega)]
    · rw [if_neg hlow, Nat.min_eq_right (by omega)]
      rfl
  · simp only [sampleOf, BitVec.getLsbD_extractLsb', hi, decide_true, Bool.true_and, Nat.zero_add]
  · simp only [sampleOf, BitVec.getLsbD_extractLsb', hi, decide_true, Bool.true_and, Nat.add_comm]

/-- A sign-extended number repeats its highest bit. -/
theorem getLsbD_signExtend_ofInt {m : Nat} (hpos : 0 < m) (hm : m ≤ 32) (v : Int) {i : Nat}
    (hi : i < 32) : ((BitVec.ofInt m v).signExtend 32).getLsbD i =
      (BitVec.ofInt 32 v).getLsbD (min i (m - 1)) := by
  rw [BitVec.getLsbD_signExtend, BitVec.msb_eq_getLsbD_last]
  simp only [hi, decide_true, Bool.true_and]
  by_cases hlow : i < m
  · rw [if_pos hlow, getLsbD_ofInt_narrow v hlow hm, Nat.min_eq_left (by omega)]
  · have hlast : m - 1 < m := by omega
    rw [if_neg hlow, getLsbD_ofInt_narrow v hlast hm, Nat.min_eq_right (by omega)]

/-- The bits of a word a sample is laid into. -/
theorem sampleWord_bits (v : Int) {i : Nat} (hi : i < 32) :
    (sampleWord .s16r v).getLsbD i = (BitVec.ofInt 32 v).getLsbD (min i 15) ∧
    (sampleWord .s24r v).getLsbD i = (BitVec.ofInt 32 v).getLsbD (min i 23) ∧
    (sampleWord .s24l v).getLsbD i = (decide (8 ≤ i) && (BitVec.ofInt 32 v).getLsbD (i - 8)) := by
  refine ⟨getLsbD_signExtend_ofInt (by omega) (by omega) v hi,
    getLsbD_signExtend_ofInt (by omega) (by omega) v hi, ?_⟩
  rw [sampleWord, BitVec.getLsbD_append]
  by_cases hlow : i < 8
  · rw [if_pos hlow, decide_eq_false (by omega)]
    simp
  · have hbit : i - 8 < 24 := by omega
    have hwidth : 24 ≤ 32 := by omega
    rw [if_neg hlow, decide_eq_true (by omega), Bool.true_and, getLsbD_ofInt_narrow v hbit hwidth]

/-- The value of a word a sample is laid into, where it fits. -/
theorem sampleWord_toInt (v : Int) :
    (-32768 ≤ v → v ≤ 32767 → (sampleWord .s16r v).toInt = v) ∧
    (-8388608 ≤ v → v ≤ 8388607 →
      (sampleWord .s24r v).toInt = v ∧ (sampleWord .s24l v).toInt = v * 256) := by
  refine ⟨fun hlow hhigh => ?_, fun hlow hhigh => ?_⟩
  · rw [sampleWord, BitVec.toInt_signExtend_of_le (by omega),
      BitVec.toInt_ofInt_eq_self (by omega) (by omega) (by omega)]
  · have hvalue : (BitVec.ofInt 24 v).toInt = v :=
      BitVec.toInt_ofInt_eq_self (by omega) (by omega) (by omega)
    refine ⟨?_, ?_⟩
    · rw [sampleWord, BitVec.toInt_signExtend_of_le (by omega), hvalue]
    · rw [sampleWord, BitVec.toInt_append_zero, hvalue]
      omega

theorem saturate_eq {low high : Int} (h : low ≤ high) (v : Int) :
    saturate low high v = max low (min high v) := by
  unfold saturate
  split
  · omega
  · split <;> omega

/-- Saturation, as a number held to its range (R71, R103). -/
theorem saturate_ranges (v : Int) :
    saturateFormat .s16r v = max (-32768) (min 32767 v) ∧
    saturateFormat .s24r v = max (-8388608) (min 8388607 v) ∧
    saturateFormat .s24l v = max (-8388608) (min 8388607 v) ∧
    saturate24 v = max (-8388608) (min 8388607 v) :=
  ⟨saturate_eq (by omega) v, saturate_eq (by omega) v, saturate_eq (by omega) v,
    saturate_eq (by omega) v⟩

/-- The format of the INPUT window's entry (R103). -/
theorem inputFormat_eq {u : State} {x : WindowEntry}
    (h : u.map.entries.toList.find? (fun e => decide (Role.ofCode e.role = some .input)) = some x) :
    inputSize u = x.size.toNat ∧ (x.format = 0 → inputFormat u = .s16r) ∧
      (x.format = 1 → inputFormat u = .s24r) ∧ (x.format = 2 → inputFormat u = .s24l) := by
  have hentry : inputEntry u = x := by rw [inputEntry, h, Option.getD_some]
  refine ⟨by rw [inputSize, hentry], fun hf => ?_, fun hf => ?_, fun hf => ?_⟩
  · rw [inputFormat, hentry, hf]
    rfl
  · rw [inputFormat, hentry, hf]
    rfl
  · rw [inputFormat, hentry, hf]
    rfl

/-! ### Rounding (R71, R88) -/

/-- A rational rounded to the nearest whole number, an exact half away from zero. -/
def roundedAway (y : ℚ) : ℤ := if 0 ≤ y then ⌊y + 1 / 2⌋ else -⌊-y + 1 / 2⌋

/-- A count over another, to the nearest with a half up. -/
theorem floor_half_up (n d : Nat) (h : 0 < d) :
    (((2 * n + d) / (2 * d) : Nat) : Int) = ⌊(n : ℚ) / d + 1 / 2⌋ := by
  have hd : (d : ℚ) ≠ 0 := by exact_mod_cast Nat.pos_iff_ne_zero.mp h
  have hsum : (n : ℚ) / d + 1 / 2 = ((2 * n + d : Nat) : ℚ) / ((2 * d : Nat) : ℚ) := by
    push_cast
    field_simp
  rw [hsum, Rat.floor_natCast_div_natCast]
  push_cast
  rfl

/-- The model's rounding is that of the rational it stands for. -/
theorem roundAway_eq (num : Int) {den : Nat} (h : 0 < den) :
    roundAway num den = roundedAway ((num : ℚ) / den) := by
  have hden : (0 : ℚ) < den := by exact_mod_cast h
  unfold roundAway roundedAway
  by_cases hsign : 0 ≤ num
  · have hnum : (num : ℚ) = (num.toNat : ℚ) := by exact_mod_cast (Int.toNat_of_nonneg hsign).symm
    have hq : 0 ≤ (num : ℚ) / den := div_nonneg (by exact_mod_cast hsign) hden.le
    rw [if_pos hsign, if_pos hq, floor_half_up _ _ h, hnum]
  · have hnum : (-(num : ℚ)) = ((-num).toNat : ℚ) := by
      exact_mod_cast (Int.toNat_of_nonneg (by omega : 0 ≤ -num)).symm
    have hneg : (num : ℚ) < 0 := by exact_mod_cast not_le.mp hsign
    have hq : ¬ 0 ≤ (num : ℚ) / den := not_le.mpr (div_neg_of_neg_of_pos hneg hden)
    rw [if_neg hsign, if_neg hq, floor_half_up _ _ h, ← neg_div, hnum]

/-- The value interpolated at a position from two samples (R71). -/
def alongAt (format : Format) (words : List Word) (i : Nat) (q : Position) : ℚ :=
  ((sampleOf format (words.getD i 0)).toInt : ℚ) +
    (((sampleOf format (words.getD (i + 1) 0)).toInt : ℚ) - (sampleOf format (words.getD i 0)).toInt) *
      ((q.extractLsb' 0 16).toNat / 65536)

theorem interpolate_cast (a b : Int) (f : Nat) :
    ((interpolate a b f : Int) : ℚ) = 65536 * (a + (b - a) * (f / 65536)) := by
  unfold interpolate
  push_cast
  ring

/-- The output value of a steady voice (R71). -/
theorem outputValue_steady {format : Format} {gain xf : Nat} {r : VoiceRecord} {words : List Word}
    {p : Position} (hp : r.p = some p) (hx : r.xfade = none) (hxf : 0 < xf) :
    outputValue format gain xf r words =
      roundedAway (alongAt format words 0 p * (gain / 128) * (r.fade / xf)) := by
  have hblend : blend format r words =
      (interpolate (sampleOf format (words.getD 0 0)).toInt
        (sampleOf format (words.getD 1 0)).toInt (fraction p), 1) := by
    simp only [blend, hp, hx]
  have hxf' : (xf : ℚ) ≠ 0 := by exact_mod_cast Nat.pos_iff_ne_zero.mp hxf
  unfold outputValue alongAt
  rw [hblend]
  dsimp only
  generalize (sampleOf format (words.getD 0 0)).toInt = x₀
  generalize (sampleOf format (words.getD 1 0)).toInt = x₁
  rw [roundAway_eq _ (by positivity)]
  push_cast
  rw [interpolate_cast, fraction]
  congr 1
  field_simp
  ring

/-- The output value of a crossfading voice (R88). -/
theorem outputValue_crossfading {format : Format} {gain xf : Nat} {r : VoiceRecord}
    {words : List Word} {p : Position} {c : Crossfade} (hp : r.p = some p) (hx : r.xfade = some c)
    (hxf : 0 < xf) (hlength : 0 < c.length) :
    outputValue format gain xf r words =
      roundedAway ((alongAt format words 0 p * ((c.length - c.k) / c.length) +
        alongAt format words 2 c.q * (c.k / c.length)) * (gain / 128) * (r.fade / xf)) := by
  have hblend : blend format r words =
      (interpolate (sampleOf format (words.getD 0 0)).toInt
        (sampleOf format (words.getD 1 0)).toInt (fraction p) * ((c.length : Int) - c.k) +
      interpolate (sampleOf format (words.getD 2 0)).toInt
        (sampleOf format (words.getD 3 0)).toInt (fraction c.q) * c.k, c.length) := by
    simp only [blend, hp, hx]
  have hxf' : (xf : ℚ) ≠ 0 := by exact_mod_cast Nat.pos_iff_ne_zero.mp hxf
  have hlength' : (c.length : ℚ) ≠ 0 := by exact_mod_cast Nat.pos_iff_ne_zero.mp hlength
  unfold outputValue alongAt
  rw [hblend]
  dsimp only
  generalize (sampleOf format (words.getD 0 0)).toInt = x₀
  generalize (sampleOf format (words.getD 1 0)).toInt = x₁
  generalize (sampleOf format (words.getD 2 0)).toInt = x₂
  generalize (sampleOf format (words.getD 3 0)).toInt = x₃
  rw [roundAway_eq _ (by positivity)]
  push_cast
  rw [interpolate_cast, interpolate_cast, fraction, fraction]
  congr 1
  field_simp

/-! ### The splice period (R26) -/

theorem splicePeriod_unvoiced {t : Tracker} (h : ∀ x ∈ t.history, x.voiced = false) :
    t.splicePeriod = none := by
  have hfind : t.history.find? (·.voiced) = none :=
    List.find?_eq_none.mpr fun x hx => by simp [h x hx]
  rw [Tracker.splicePeriod, hfind, Option.bind_none]

/-- The newest voiced record's period in whole samples, a half up. -/
theorem splicePeriod_voiced {t : Tracker} {before after : List PitchRecord} {x : PitchRecord} {q : Nat}
    (hhistory : t.history = before ++ x :: after) (hbefore : ∀ y ∈ before, y.voiced = false)
    (hvoiced : x.voiced = true) (hperiod : x.period = some q) :
    ∃ k : Nat, t.splicePeriod = some k ∧ (k : ℤ) = ⌊(q : ℚ) / 16 + 1 / 2⌋ := by
  have hskip : before.find? (·.voiced) = none :=
    List.find?_eq_none.mpr fun y hy => by simp [hbefore y hy]
  have hfind : t.history.find? (·.voiced) = some x := by
    rw [hhistory, List.find?_append, hskip, List.find?_cons_of_pos hvoiced]
    rfl
  refine ⟨(q + 8) / 16, ?_, ?_⟩
  · rw [Tracker.splicePeriod, hfind, Option.bind_some, hperiod, Option.map_some]
  · have hhalf := floor_half_up q 16 (by omega)
    rw [Nat.cast_ofNat] at hhalf
    rw [← hhalf]
    omega

end Sys2Proof.Machine
end

section
/-! PROOFS. Stream and peek reads, from their taking to their completion. -/

namespace Sys2Proof.Machine

/-! ### The voices of a read, one by one (R106, R111) -/

theorem runVoices_nil (u : State) (r : TapRead) :
    runVoices [] u r = (u, { r with todo := [], work := none }) := rfl

/-- A voice without a position is passed over. -/
theorem runVoices_unpositioned {u : State} {v : Fin 4} (h : (voiceOf u v).p = none)
    (more : List (Fin 4)) (r : TapRead) : runVoices (v :: more) u r = runVoices more u r := by
  rw [runVoices, h]

theorem runVoices_skips {u : State} {voices : List (Fin 4)} (h : ∀ v ∈ voices, (voiceOf u v).p = none)
    (more : List (Fin 4)) (r : TapRead) : runVoices (voices ++ more) u r = runVoices more u r := by
  induction voices with
  | nil => rfl
  | cons v rest ih =>
    rw [List.cons_append, runVoices_unpositioned (h v List.mem_cons_self)]
    exact ih fun w hw => h w (List.mem_cons_of_mem v hw)

/-- A voice with a position is begun, and finished at once where the queue serves all its fetches. -/
theorem runVoices_positioned {u : State} {v : Fin 4} (h : (voiceOf u v).p ≠ none)
    (more : List (Fin 4)) (r : TapRead) : runVoices (v :: more) u r =
      if (beginVoice u r v).2.left.isEmpty then
        runVoices more (finishVoice (beginVoice u r v).1 r (beginVoice u r v).2).1
          (finishVoice (beginVoice u r v).1 r (beginVoice u r v).2).2
      else ((beginVoice u r v).1, { r with todo := more, work := some (beginVoice u r v).2 }) := by
  obtain ⟨p, hp⟩ := Option.ne_none_iff_exists'.mp h
  rw [runVoices, hp]

/-- The words the queue serves of a voice's fetches, and those left to memory. -/
theorem beginVoice_served {u : State} {v : Fin 4} {served left : List Addr} {words : List Word}
    (hfetches : recordFetches u (hardCheck u (voiceOf u v)).1 = served ++ left)
    (hserved : served.map (forwarded u.bus.queue) = words.map some)
    (hleft : ∀ b rest, left = b :: rest → forwarded u.bus.queue b = none) (r : TapRead) :
    beginVoice u r v =
      (raiseEvents u ((hardCheck u (voiceOf u v)).2.map (hardSpliceEvent r v)),
        ⟨v, (hardCheck u (voiceOf u v)).1, words, left⟩) := by
  have hqueue : serveQueued u.bus.queue [] (recordFetches u (hardCheck u (voiceOf u v)).1) =
      (words, left) := by
    rw [hfetches, serveQueued_append hserved, List.nil_append]
    cases left with
    | nil => rfl
    | cons b rest => exact serveQueued_waits (hleft b rest rfl) words rest
  unfold beginVoice
  simp only [VoiceWork.served, hqueue]

theorem ringAddr_eq {u : State} {o : Nat} (h : u.cap.offset = some o) (x : Word) : ringAddr u x =
    (inputEntry u).base + BitVec.ofNat 20 ((o + x.toNat) % inputSize u) := by
  rw [ringAddr, h]
  rfl

/-- The fetches of a record: its position's two, then its crossfade's (R87). -/
theorem recordFetches_eq {u : State} {r : VoiceRecord} {p : Position} (hp : r.p = some p) :
    recordFetches u r =
      positionFetches u p ++ (r.xfade.map (fun x => positionFetches u x.q)).getD [] := by
  cases hx : r.xfade with
  | none => simp only [recordFetches, hp, hx, Option.map_none, Option.getD_none, List.append_nil]
  | some x => simp only [recordFetches, hp, hx, Option.map_some, Option.getD_some]

/-- A voice of a read: held at the first fetch memory must serve, or finished (R106, R111). -/
theorem runVoices_voice {u : State} {v : Fin 4} {p : Position} {served left : List Addr}
    {words : List Word} (hvoice : (voiceOf u v).p ≠ none)
    (hp : (hardCheck u (voiceOf u v)).1.p = some p)
    (hfetches : positionFetches u p ++
      ((hardCheck u (voiceOf u v)).1.xfade.map (fun x => positionFetches u x.q)).getD [] =
        served ++ left)
    (hserved : served.map (forwarded u.bus.queue) = words.map some) (more : List (Fin 4))
    (r : TapRead) :
    let checked := hardCheck u (voiceOf u v)
    let raised := raiseEvents u (checked.2.map (hardSpliceEvent r v))
    (∀ b rest, left = b :: rest → forwarded u.bus.queue b = none →
      runVoices (v :: more) u r =
        (raised, { r with todo := more, work := some ⟨v, checked.1, words, left⟩ })) ∧
    (left = [] → runVoices (v :: more) u r =
      runVoices more (finishVoice raised r ⟨v, checked.1, words, []⟩).1
        (finishVoice raised r ⟨v, checked.1, words, []⟩).2) := by
  intro checked raised
  have hall : recordFetches u checked.1 = served ++ left := (recordFetches_eq hp).trans hfetches
  refine ⟨fun b rest hb hmemory => ?_, fun hnone => ?_⟩
  · have hbegun := beginVoice_served hall hserved (fun b' rest' h => by
      rw [hb, List.cons.injEq] at h
      rw [← h.1]
      exact hmemory) r
    rw [runVoices_positioned hvoice, hbegun, hb]
    rfl
  · have hbegun := beginVoice_served hall hserved (fun b' rest' h => by simp [hnone] at h) r
    rw [runVoices_positioned hvoice, hbegun, hnone]
    rfl

/-- A voice finished: its CLIPPED with one event where it was clear, its moves, and its share of the sum
(R71, R72, R83). -/
theorem finishVoice_eq (u : State) (r : TapRead) (w : VoiceWork) :
    let value := outputValue (inputFormat u) (voiceSetup u w.voice).gain.toNat
      u.setup.active.general.xf.toNat w.record w.words
    let clips : Prop := saturate24 value ≠ value
    let record : VoiceRecord := { w.record with clipped := w.record.clipped || decide clips }
    finishVoice u r w =
      (if clips ∧ w.record.clipped = false then raiseEvent u (clipEvent r (some w.voice) value) else u,
        { r with
          work := none
          moved := r.moved ++ [(w.voice,
            if r.offset < 4 ∨ r.offset = 8 then streamMoves u r.period record else record)]
          total := r.total + saturate24 value }) := by
  intro value clips record
  have hstream : (if r.isStream then streamMoves u r.period record else record) =
      if r.offset < 4 ∨ r.offset = 8 then streamMoves u r.period record else record := by
    simp only [TapRead.isStream, decide_eq_true_eq]
  have hevents : raiseEvents u (if decide clips then clipEvents r w.voice w.record value else []) =
      if clips ∧ w.record.clipped = false then raiseEvent u (clipEvent r (some w.voice) value)
      else u := by
    by_cases hclips : clips
    · cases hquiet : w.record.clipped <;> simp [hclips, clipEvents, hquiet, raiseEvents]
    · simp [hclips, raiseEvents]
  rw [← hevents, ← hstream]
  rfl

/-! ### A read taken (R104 to R107, R110) -/

/-- Every stream and peek row is the one read cycle, at a free port taken by its offset. -/
theorem exec_streamReads {s : State} {a : Addr} {n : Nat} (hfree : portFree s)
    (hplace : classify s a = some (.tap, n)) {i : Instr}
    (hi : i ∈ [Instr.voiceStreamRead a, .voicePeekRead a, .mixStreamRead a, .mixPeekRead a]) :
    exec i s = .next (grant (takeTap (beginStep s) a n)) := by
  have hread := tapRead_free hfree hplace
  simp only [List.mem_cons, List.not_mem_nil, or_false] at hi
  rcases hi with rfl | rfl | rfl | rfl <;> exact hread

theorem tapVoices_eq {n : Nat} {voices : List (Fin 4)} (hmix : 8 ≤ n → voices = [0, 1, 2, 3])
    (hvoice : n < 8 → ∃ v : Fin 4, v.val = n % 4 ∧ voices = [v]) : tapVoices n = voices := by
  unfold tapVoices
  split
  · rename_i h
    rw [hmix h]
  · rename_i h
    obtain ⟨v, hv, rfl⟩ := hvoice (by omega)
    have heq : Fin.ofNat 4 n = v := Fin.ext hv.symm
    rw [heq]

/-- A tap read just taken: no voice done, no word fetched, the splice period of this moment (R26). -/
def TapRead.taken (s : State) (a : Addr) (n : Nat) : TapRead :=
  ⟨a, n, s.cap.count, s.trk.splicePeriod, [], none, [], 0, []⟩

/-- A read at offsets 0 to 9 taken in RUNNING. -/
theorem takeTap_running {s : State} {a : Addr} {n : Nat} (hn : n ≤ 9)
    (hrunning : s.setup.engine = .running) :
    takeTap s a n = settleTap (runVoices (tapVoices n) s (TapRead.taken s a n)) := by
  unfold takeTap
  rw [if_neg (by omega), hrunning]
  rfl

theorem takeTap_halted {s : State} {a : Addr} {n : Nat} (hn : n ≤ 9)
    (hhalted : s.setup.engine = .halted) : takeTap s a n = endCycle s (some 0) := by
  unfold takeTap
  rw [if_neg (by omega), hhalted]

/-- A silent sum is the zero word, whatever the format. -/
theorem sampleWord_zero (format : Format) :
    sampleWord format (saturateFormat format (saturate24 0)) = 0 ∧
    sampleWord format (saturateFormat format 0) = 0 ∧ saturateFormat format 0 = 0 ∧
    saturateFormat format (saturate24 0) = 0 := by
  cases format <;> decide

/-- A read that finds no voice at a position returns zero and moves nothing (R104 to R107). -/
theorem completeTap_empty (s : State) {r : TapRead} (htotal : r.total = 0) (hmoved : r.moved = [])
    (hclaims : r.claims = []) : completeTap s r = endCycle s (some 0) := by
  obtain ⟨hmix, hvoice, hfits, hfits'⟩ := sampleWord_zero (inputFormat s)
  rcases Nat.lt_or_ge r.offset 8 with h | h
  · rw [completeTap_voice s h (by rw [htotal, hfits]), hmoved, hclaims, htotal, hvoice]
    rfl
  · have hquiet : ¬ (saturateFormat (inputFormat s) (saturate24 r.total) ≠ r.total) := by
      rw [htotal, hfits']
      exact not_not.mpr rfl
    rw [completeTap_mix s h, hmoved, hclaims, htotal, hmix]
    simp only [htotal] at hquiet
    rw [if_neg fun hclips => hquiet hclips.1, decide_eq_false hquiet, Bool.or_false]
    rfl

/-- A read in HALTED, or one that finds no position, returns zero (R104 to R107, R110). -/
theorem takeTap_zero {s : State} {a : Addr} {n : Nat} (hfree : portFree s) (hn : n ≤ 9)
    (hnone : s.setup.engine = .halted ∨ (s.setup.engine = .running ∧
      ∀ v : Fin 4, 8 ≤ n ∨ n % 4 = v.val → (voiceOf s v).p = none)) :
    takeTap (beginStep s) a n = { s with pd := some 0 } := by
  rw [← endCycle_beginStep hfree.1]
  rcases hnone with hhalted | ⟨hrunning, hnone⟩
  · exact takeTap_halted (s := beginStep s) hn hhalted
  · rw [takeTap_running (s := beginStep s) hn hrunning]
    have hskip : ∀ v ∈ tapVoices n, (voiceOf (beginStep s) v).p = none := fun v hv => by
      refine hnone v ?_
      unfold tapVoices at hv
      split at hv
      · exact Or.inl ‹8 ≤ n›
      · rw [List.mem_singleton] at hv
        exact Or.inr (by rw [hv]; rfl)
    have hrun := runVoices_skips hskip [] (TapRead.taken (beginStep s) a n)
    rw [List.append_nil] at hrun
    rw [hrun, runVoices_nil, settleTap_completes rfl]
    exact completeTap_empty _ rfl rfl rfl

end Sys2Proof.Machine
end

section
/-! PROOFS. A steady voice inside the hard window, read at once from the write post queue. -/

namespace Sys2Proof.Machine

/-! ### The steady voice's moves (R83, R90) -/

/-- A steady SOUNDING voice that stays in the lag window moves by its ratio and nothing else. -/
theorem streamMoves_steady {s : State} {period : Option Nat} {r : VoiceRecord} {p : Position}
    (hsounding : r.state = .sounding) (hp : r.p = some p) (hx : r.xfade = none)
    (hlow : 65536 * (s.setup.active.general.lagLow.toNat : Int) ≤
      exactLag s.cap.c (p + BitVec.ofNat 48 r.ratio))
    (hhigh : exactLag s.cap.c (p + BitVec.ofNat 48 r.ratio) ≤
      65536 * (s.setup.active.general.lagHigh.toNat : Int)) :
    streamMoves s period r = { r with p := some (p + BitVec.ofNat 48 r.ratio) } := by
  obtain ⟨hadvanced, hended⟩ := advancePositions_steady hp hx
  have hfade : fadeStep s.setup.active.general.xf.toNat (advancePositions r) =
      { r with p := some (p + BitVec.ofNat 48 r.ratio) } := by
    rw [hadvanced, fadeStep_still (by simp [hsounding]) (by simp [hsounding])]
  obtain ⟨_, _, hneither⟩ := softNeed_eq s r.ratio (p + BitVec.ofNat 48 r.ratio)
  have hnone := hneither (by omega) (by omega)
  rw [streamMoves_eq, hfade, hended,
    softCheck_steady (r := { r with p := some (p + BitVec.ofNat 48 r.ratio) }) rfl hx,
    if_neg (by simp)]
  exact softCheckSteady_eq.2 hnone

/-- A steady voice inside the hard window with both its words queued is finished at once (R86, R111). -/
theorem runVoices_steady {u : State} {v : Fin 4} {p : Position} {w₀ w₁ : Word}
    (hp : (voiceOf u v).p = some p) (hx : (voiceOf u v).xfade = none)
    (hinside : insideHard u p = true)
    (h₀ : forwarded u.bus.queue (ringAddr u (wholePart p)) = some w₀)
    (h₁ : forwarded u.bus.queue (ringAddr u (wholePart p + 1)) = some w₁) (more : List (Fin 4))
    (r : TapRead) : runVoices (v :: more) u r =
      runVoices more (finishVoice u r ⟨v, voiceOf u v, [w₀, w₁], []⟩).1
        (finishVoice u r ⟨v, voiceOf u v, [w₀, w₁], []⟩).2 := by
  have hchecked : hardCheck u (voiceOf u v) = (voiceOf u v, []) :=
    (hardCheck_steady hp hx).trans (if_pos hinside)
  have hfirst : (hardCheck u (voiceOf u v)).1 = voiceOf u v := by rw [hchecked]
  have hserved : (positionFetches u p).map (forwarded u.bus.queue) = [w₀, w₁].map some := by
    simp only [positionFetches, List.map_cons, List.map_nil, h₀, h₁]
  have hfetches : positionFetches u p ++
      ((hardCheck u (voiceOf u v)).1.xfade.map (fun x => positionFetches u x.q)).getD [] =
        positionFetches u p ++ [] := by
    rw [hfirst, hx]
    rfl
  have hvoice := (runVoices_voice (by simp [hp]) (by rw [hfirst, hp]) hfetches hserved more r).2 rfl
  rw [hchecked] at hvoice
  exact hvoice

/-- The value of a steady voice's two samples (R71). -/
theorem outputValue_words {format : Format} {gain xf : Nat} {r : VoiceRecord} {p : Position}
    (hp : r.p = some p) (hx : r.xfade = none) (w₀ w₁ : Word) :
    outputValue format gain xf r [w₀, w₁] =
      roundAway (((sampleOf format w₀).toInt * 65536 +
        ((sampleOf format w₁).toInt - (sampleOf format w₀).toInt) * fraction p) * gain * r.fade)
        (65536 * 1 * 128 * xf) := by
  have hblend : blend format r [w₀, w₁] =
      (interpolate (sampleOf format w₀).toInt (sampleOf format w₁).toInt (fraction p), 1) := by
    simp only [blend, hp, hx]
    rfl
  unfold outputValue
  rw [hblend]
  rfl

/-! ### The saturations of a voice read (R72, R103) -/

/-- A value the format leaves alone fits 24 bits. -/
theorem saturate24_of_saturateFormat {format : Format} {value : Int}
    (h : saturateFormat format (saturate24 value) = value) : saturate24 value = value := by
  obtain ⟨h16, h24r, h24l, _⟩ := saturate_ranges (saturate24 value)
  obtain ⟨_, _, _, h24⟩ := saturate_ranges value
  cases format with
  | s16r => omega
  | s24r => omega
  | s24l => omega

theorem cycle_freed {b : BusPath} (h : b.cycle = none) : { b with cycle := none } = b := by
  rw [← h]

/-- An event raised or not, by the Report Unit it leaves. -/
theorem raiseEvent_if (u : State) (e : Event) (c : Prop) [Decidable c] :
    (if c then raiseEvent u e else u) =
      { u with rpt := if c then (raiseEvent u e).rpt else u.rpt } := by
  split
  · exact raiseEvent_rptOnly u e
  · rfl

/-- One voice finished by a voice read, and the read's end: the two saturations set CLIPPED once, with one
event where it was clear (R72). -/
theorem completeTap_single {u : State} {r : TapRead} {w : VoiceWork} {k : VoiceRecord}
    (hvoice : r.offset < 8) (hmoved : r.moved = []) (htotal : r.total = 0) (hclaims : r.claims = [])
    (hcycle : u.bus.cycle = none)
    (hmoves : ∀ b, (if r.offset < 4 ∨ r.offset = 8 then
      streamMoves u r.period { w.record with clipped := b } else { w.record with clipped := b }) =
        { k with clipped := b }) :
    let value := outputValue (inputFormat u) (voiceSetup u w.voice).gain.toNat
      u.setup.active.general.xf.toNat w.record w.words
    let sample := saturateFormat (inputFormat u) (saturate24 value)
    let clips : Prop := sample ≠ value
    completeTap (finishVoice u r w).1 { (finishVoice u r w).2 with todo := [], work := none } =
      { u with
        pd := some (sampleWord (inputFormat u) sample)
        rpt := if clips ∧ w.record.clipped = false then
            (raiseEvent u (clipEvent r (some w.voice) value)).rpt
          else u.rpt
        vce := { u.vce with
          voices := u.vce.voices.set w.voice
            { k with clipped := w.record.clipped || decide clips } } } := by
  intro value sample clips
  have hfinish := finishVoice_eq u r w
  dsimp only at hfinish
  rw [hmoves, raiseEvent_if, hmoved, htotal, Int.zero_add, List.nil_append] at hfinish
  have hsample : clips → saturate24 value = value →
      saturateFormat (inputFormat u) (saturate24 value) ≠ saturate24 value := fun hclips hfits h =>
    hclips (h.trans hfits)
  rw [hfinish]
  dsimp only
  by_cases hformat : saturateFormat (inputFormat u) (saturate24 value) = saturate24 value
  · have hend := completeTap_voice
      { u with rpt := if saturate24 value ≠ value ∧ w.record.clipped = false then
          (raiseEvent u (clipEvent r (some w.voice) value)).rpt else u.rpt }
      (r := { r with
        todo := [], work := none
        moved := [(w.voice, { k with
          clipped := w.record.clipped || decide (saturate24 value ≠ value) })]
        total := saturate24 value }) hvoice hformat
    have hclips : clips ↔ saturate24 value ≠ value :=
      not_congr ⟨fun h => hformat.symm.trans h, fun h => hformat.trans h⟩
    refine hend.trans ?_
    simp only [hclips, hclaims, List.foldl_nil, List.foldl_cons, cycle_freed hcycle]
    rfl
  · have hend := completeTap_clipped
      { u with rpt := if saturate24 value ≠ value ∧ w.record.clipped = false then
          (raiseEvent u (clipEvent r (some w.voice) value)).rpt else u.rpt }
      (r := { r with
        todo := [], work := none
        moved := [(w.voice, { k with
          clipped := w.record.clipped || decide (saturate24 value ≠ value) })]
        total := saturate24 value }) hvoice rfl hformat
    have hclips : clips := fun h => hformat (h.trans (saturate24_of_saturateFormat h).symm)
    refine hend.trans ?_
    simp only [hclaims, List.foldl_nil, cycle_freed hcycle]
    rw [decide_eq_true hclips, Bool.or_true]
    by_cases hfits : saturate24 value = value
    · have hsampled : sample = saturateFormat (inputFormat u) value := 
        congrArg (saturateFormat (inputFormat u)) hfits
      simp only [hfits, ne_eq, not_true_eq_false, decide_false, Bool.or_false, false_and, if_false]
      cases hquiet : w.record.clipped with
      | false =>
        have hraised : clips ∧ false = false := ⟨hclips, rfl⟩
        rw [if_pos hraised, hsampled]
        rfl
      | true =>
        have hquieted : ¬ (clips ∧ true = false) := fun h => Bool.noConfusion h.2
        rw [if_neg hquieted, hsampled]
        rfl
    · have hset : (w.record.clipped || decide (saturate24 value ≠ value)) = true := by
        rw [decide_eq_true hfits, Bool.or_true]
      rw [if_pos hset]
      simp only [hclips, ne_eq, hfits, not_false_eq_true, true_and]
      rfl

/-- A voice finished within 24 bits leaves the machine alone until the read's end. -/
theorem finishVoice_fits {u : State} {r : TapRead} {w : VoiceWork} {value : Int}
    (hvalue : outputValue (inputFormat u) (voiceSetup u w.voice).gain.toNat
      u.setup.active.general.xf.toNat w.record w.words = value)
    (hfits : saturate24 value = value) : finishVoice u r w =
      (u, { r with
        work := none
        moved := r.moved ++ [(w.voice,
          if r.offset < 4 ∨ r.offset = 8 then streamMoves u r.period w.record else w.record)]
        total := r.total + value }) := by
  have hfinish := finishVoice_eq u r w
  dsimp only at hfinish
  rw [hvalue, hfits] at hfinish
  simpa using hfinish

/-- A mix read of one voice, where nothing saturates (R106, R107). -/
theorem completeTap_mixSingle {u : State} {r : TapRead} (hmix : 8 ≤ r.offset)
    (hclaims : r.claims = []) (hcycle : u.bus.cycle = none) {v : Fin 4} {k : VoiceRecord}
    (hmoved : r.moved = [(v, k)])
    (hfits : saturateFormat (inputFormat u) (saturate24 r.total) = r.total) :
    completeTap u r = { u with
      pd := some (sampleWord (inputFormat u) r.total)
      vce := { u.vce with voices := u.vce.voices.set v k } } := by
  have hquiet : ¬ (saturateFormat (inputFormat u) (saturate24 r.total) ≠ r.total) := not_not.mpr hfits
  rw [completeTap_mix u hmix, hclaims, hmoved, if_neg fun h => hquiet h.1, decide_eq_false hquiet,
    Bool.or_false, hfits, cycle_freed hcycle]
  rfl

/-- Every voice, split at one of them. -/
theorem voices_split (v : Fin 4) : ∃ before after : List (Fin 4),
    [0, 1, 2, 3] = before ++ v :: after ∧ v ∉ before ∧ v ∉ after := by
  match v with
  | 0 => exact ⟨[], [1, 2, 3], rfl, by decide, by decide⟩
  | 1 => exact ⟨[0], [2, 3], rfl, by decide, by decide⟩
  | 2 => exact ⟨[0, 1], [3], rfl, by decide, by decide⟩
  | 3 => exact ⟨[0, 1, 2], [], rfl, by decide, by decide⟩

/-! ### One steady voice read (R71, R72, R83, R95, R104 to R107) -/

/-- What StreamAndPeekReads asks of a steady voice before its read: RUNNING, inside the hard window, its
two words queued, and inside the lag window where its move would take it. -/
structure SteadyRead (s : State) (v : Fin 4) (p : Position) (w₀ w₁ : Word) : Prop where
  running : s.setup.engine = .running
  sounding : (voiceOf s v).state = .sounding
  position : (voiceOf s v).p = some p
  steady : (voiceOf s v).xfade = none
  near : 2 ≤ (s.cap.c - p.extractLsb' 16 32).toInt
  far : (s.cap.c - p.extractLsb' 16 32).toInt ≤ (inputSize s : Int) - 64
  first : forwarded s.bus.queue (ringAddr s (p.extractLsb' 16 32)) = some w₀
  second : forwarded s.bus.queue (ringAddr s (p.extractLsb' 16 32 + 1)) = some w₁
  low : 65536 * (s.setup.active.general.lagLow.toNat : Int) ≤
    exactLag s.cap.c (p + BitVec.ofNat 48 (voiceOf s v).ratio)
  high : exactLag s.cap.c (p + BitVec.ofNat 48 (voiceOf s v).ratio) ≤
    65536 * (s.setup.active.general.lagHigh.toNat : Int)

/-- The value of a steady voice's read (R71). -/
def steadyValue (s : State) (v : Fin 4) (w₀ w₁ : Word) : Int :=
  outputValue (inputFormat s) (voiceSetup s v).gain.toNat s.setup.active.general.xf.toNat
    (voiceOf s v) [w₀, w₁]

section
variable {s : State} {v : Fin 4} {p : Position} {w₀ w₁ : Word} {a : Addr} {n : Nat}

theorem SteadyRead.moves (h : SteadyRead s v p w₀ w₁) (period : Option Nat) (b : Bool) :
    streamMoves s period { voiceOf s v with clipped := b } =
      { voiceOf s v with p := some (p + BitVec.ofNat 48 (voiceOf s v).ratio), clipped := b } :=
  streamMoves_steady (r := { voiceOf s v with clipped := b }) h.sounding h.position h.steady h.low h.high

/-- The read of a steady voice and of others without a position: that voice finished. -/
theorem SteadyRead.runVoices (h : SteadyRead s v p w₀ w₁) {before after : List (Fin 4)}
    (hbefore : ∀ u ∈ before, (voiceOf s u).p = none) (r : TapRead) :
    Machine.runVoices (before ++ v :: after) s r =
      Machine.runVoices after (finishVoice s r ⟨v, voiceOf s v, [w₀, w₁], []⟩).1
        (finishVoice s r ⟨v, voiceOf s v, [w₀, w₁], []⟩).2 := by
  rw [runVoices_skips hbefore]
  exact runVoices_steady h.position h.steady ((insideHard_iff s p).mpr ⟨h.near, h.far⟩) h.first
    h.second after r

theorem SteadyRead.begun (h : SteadyRead s v p w₀ w₁) : SteadyRead (beginStep s) v p w₀ w₁ :=
  ⟨h.running, h.sounding, h.position, h.steady, h.near, h.far, h.first, h.second, h.low, h.high⟩

/-- A voice read of a steady voice, taken (R71, R72, R83, R95). -/
theorem SteadyRead.takeTap_voice (h : SteadyRead s v p w₀ w₁) (hcycle : s.bus.cycle = none)
    (hn : n < 8) (hvoice : n % 4 = v.val) {k : VoiceRecord}
    (hmoves : ∀ b, (if n < 4 ∨ n = 8 then
      streamMoves s s.trk.splicePeriod { voiceOf s v with clipped := b }
      else { voiceOf s v with clipped := b }) = { k with clipped := b }) :
    let value := steadyValue s v w₀ w₁
    let sample := saturateFormat (inputFormat s) (saturate24 value)
    let clips : Prop := sample ≠ value
    takeTap s a n = { s with
      pd := some (sampleWord (inputFormat s) sample)
      rpt := if clips ∧ (voiceOf s v).clipped = false then
          (raiseEvent s (clipEvent (TapRead.taken s a n) (some v) value)).rpt
        else s.rpt
      vce := { s.vce with
        voices := s.vce.voices.set v
          { k with clipped := (voiceOf s v).clipped || decide clips } } } := by
  have hvoices : tapVoices n = [] ++ [v] :=
    tapVoices_eq (fun hmix => by omega) fun _ => ⟨v, hvoice.symm, rfl⟩
  rw [takeTap_running (by omega) h.running, hvoices, h.runVoices (by simp), runVoices_nil,
    settleTap_completes rfl]
  exact completeTap_single (r := TapRead.taken s a n) (w := ⟨v, voiceOf s v, [w₀, w₁], []⟩) hn rfl rfl
    rfl hcycle hmoves

/-- A mix read of a steady voice alone at a position, taken, where nothing saturates (R106, R107). -/
theorem SteadyRead.takeTap_mix (h : SteadyRead s v p w₀ w₁) (hcycle : s.bus.cycle = none)
    (hlow : 8 ≤ n) (hhigh : n ≤ 9)
    (hfits : saturateFormat (inputFormat s) (saturate24 (steadyValue s v w₀ w₁)) =
      steadyValue s v w₀ w₁)
    (hothers : ∀ u : Fin 4, u ≠ v → (voiceOf s u).p = none) :
    takeTap s a n = { s with
      pd := some (sampleWord (inputFormat s) (steadyValue s v w₀ w₁))
      vce := { s.vce with
        voices := s.vce.voices.set v
          (if n = 8 then streamMoves s s.trk.splicePeriod (voiceOf s v) else voiceOf s v) } } := by
  obtain ⟨before, after, hsplit, hbefore, hafter⟩ := voices_split v
  have hvoices : tapVoices n = before ++ v :: after :=
    tapVoices_eq (fun _ => hsplit.symm) fun hvoice => by omega
  have hfinish := finishVoice_fits (u := s) (r := TapRead.taken s a n)
    (w := ⟨v, voiceOf s v, [w₀, w₁], []⟩) (value := steadyValue s v w₀ w₁) rfl
    (saturate24_of_saturateFormat hfits)
  have hrest : ∀ r, Machine.runVoices after s r = Machine.runVoices [] s r := fun r => by
    have hskip := runVoices_skips (u := s) (voices := after)
      (fun u hu => hothers u fun heq => hafter (heq ▸ hu)) [] r
    rwa [List.append_nil] at hskip
  have hmoved : (if n < 4 ∨ n = 8 then streamMoves s s.trk.splicePeriod (voiceOf s v)
      else voiceOf s v) =
        if n = 8 then streamMoves s s.trk.splicePeriod (voiceOf s v) else voiceOf s v := by
    by_cases hn : n = 8
    · rw [if_pos (Or.inr hn), if_pos hn]
    · rw [if_neg (by omega), if_neg hn]
  rw [takeTap_running hhigh h.running, hvoices,
    h.runVoices fun u hu => hothers u fun heq => hbefore (heq ▸ hu), hfinish, hrest, runVoices_nil,
    settleTap_completes rfl, ← hmoved]
  refine (completeTap_mixSingle hlow rfl hcycle rfl ?_).trans ?_
  · change saturateFormat (inputFormat s) (saturate24 (0 + steadyValue s v w₀ w₁)) =
      0 + steadyValue s v w₀ w₁
    rw [Int.zero_add, hfits]
  · change ({ s with pd := some (sampleWord (inputFormat s) (0 + steadyValue s v w₀ w₁)), vce := _ } :
      State) = _
    rw [Int.zero_add]
    rfl

end

/-! ### The reads a steady voice is asked for -/

theorem setVoice_voiceOf (s : State) (v : Fin 4) : s.vce.voices.set v (voiceOf s v) = s.vce.voices := by
  simp [voiceOf]

theorem clipDetail_voiceStream (s : State) (a : Addr) (v : Fin 4) :
    (TapRead.taken s a v.val).clipDetail = 1 :=
  if_pos (by change v.val < 4; omega)

theorem clipDetail_voicePeek (s : State) (a : Addr) (v : Fin 4) :
    (TapRead.taken s a (4 + v.val)).clipDetail = 2 :=
  (if_neg (by change ¬ 4 + v.val < 4; omega)).trans (if_pos (by change 4 + v.val < 8; omega))

/-- The CLIP of a read just taken (R72). -/
theorem clip_rpt {s : State} {a : Addr} {n : Nat} {detail : Byte}
    (hdetail : (TapRead.taken s a n).clipDetail = detail) (v : Fin 4) (value : Int) :
    (raiseEvent (beginStep s) (clipEvent (TapRead.taken (beginStep s) a n) (some v) value)).rpt =
      (raiseEvent s ⟨.clip, detail, some v, BitVec.ofInt 32 value, BitVec.ofNat 32 n,
        s.cap.count⟩).rpt := by
  rw [← hdetail]
  exact raiseEvent_rpt_congr (s := s) (t := beginStep s) _ rfl rfl rfl rfl

/-- Settles O53. -/
theorem streamAndPeekReads : Obligations.StreamAndPeekReads := by
  refine ⟨fun s a n hfree hplace => ⟨fun hn hnone i hi => ?_, fun v p w₀ w₁ => ?_⟩,
    fun s a n hfree hplace hn hrunning i hi voices hmix hvoice => ?_,
    fun u r v more => ⟨runVoices_nil u r, fun h => runVoices_unpositioned h more r,
      fun o p hvoice hoffset => ?_⟩,
    fun u r w => finishVoice_eq u r w, fun format gain xf r words p hp hxf => ⟨fun hx => ?_,
      fun c hx hlength => ?_⟩,
    fun u x h => inputFormat_eq h, fun w i hi => sampleOf_bits w hi, fun v => ?_,
    fun t => ⟨splicePeriod_unvoiced, fun before after x q hhistory hbefore hvoiced hperiod =>
      splicePeriod_voiced hhistory hbefore hvoiced hperiod⟩⟩
  · rw [exec_streamReads hfree hplace hi, takeTap_zero hfree hn hnone]
  · intro r format x₀ x₁ value sample clips moved hrunning hsounding hp hx hnear hfar h₀ h₁ hlow hhigh
      raised
    have hsteady : SteadyRead s v p w₀ w₁ :=
      ⟨hrunning, hsounding, hp, hx, hnear, hfar, h₀, h₁, hlow, hhigh⟩
    have hvalue : steadyValue (beginStep s) v w₀ w₁ = value := outputValue_words hp hx w₀ w₁
    refine ⟨fun hn => ?_, fun hn => ?_, fun hfits hothers => ⟨fun hn => ?_, fun hn => ?_⟩⟩
    · subst hn
      rw [exec_streamReads hfree hplace (by simp)]
      have htaken := hsteady.begun.takeTap_voice (a := a) (n := v.val) hfree.1 (by omega) (by omega)
        (k := { r with p := some moved }) fun b => by
          rw [if_pos (by omega)]
          exact hsteady.begun.moves _ b
      rw [htaken, hvalue, clip_rpt (clipDetail_voiceStream s a v)]
      rfl
    · subst hn
      rw [exec_streamReads hfree hplace (by simp)]
      have htaken := hsteady.begun.takeTap_voice (a := a) (n := 4 + v.val) hfree.1 (by omega)
        (by omega) (k := r) fun b => by
          rw [if_neg (by omega)]
          rfl
      rw [htaken, hvalue, clip_rpt (clipDetail_voicePeek s a v)]
      rfl
    · subst hn
      rw [exec_streamReads hfree hplace (by simp)]
      have htaken := hsteady.begun.takeTap_mix (a := a) (n := 8) hfree.1 (by omega) (by omega)
        (by rw [hvalue]; exact hfits) hothers
      have hmoves := hsteady.begun.moves (beginStep s).trk.splicePeriod r.clipped
      rw [htaken, hvalue, if_pos rfl, ← hfits]
      exact congrArg (fun k => Host.Outcome.next (grant { s with
        pd := some (sampleWord format sample)
        vce := { s.vce with voices := s.vce.voices.set v k } })) hmoves
    · subst hn
      rw [exec_streamReads hfree hplace (by simp)]
      have htaken := hsteady.begun.takeTap_mix (a := a) (n := 9) hfree.1 (by omega) (by omega)
        (by rw [hvalue]; exact hfits) hothers
      rw [htaken, hvalue, if_neg (by omega), setVoice_voiceOf, ← hfits]
      rfl
  · rw [exec_streamReads hfree hplace hi, takeTap_running (s := beginStep s) hn hrunning,
      tapVoices_eq hmix hvoice]
    rfl
  · intro checked slot pair raised hp served left words hfetches hserved
    have hslot : ∀ x, ringAddr u x = slot x := fun x => ringAddr_eq hoffset x
    have hpair : ∀ q, positionFetches u q = pair q := fun q => by
      rw [positionFetches, hslot, hslot]
      rfl
    have hpairs : (fun x : Crossfade => positionFetches u x.q) = fun x => pair x.q :=
      funext fun x => hpair x.q
    exact runVoices_voice hvoice hp (by rw [hpair, hpairs]; exact hfetches) hserved more r
  · exact outputValue_steady hp hx hxf
  · exact outputValue_crossfading hp hx hxf hlength
  · obtain ⟨h16, h24r, h24l, h24⟩ := saturate_ranges v
    obtain ⟨hfits16, hfits24⟩ := sampleWord_toInt v
    exact ⟨h16, h24r, h24l, h24, hfits16, hfits24, fun i hi => sampleWord_bits v hi⟩

end Sys2Proof.Machine
end

section
/-! PROOFS. Ratios and pitch values: a bitwise search for the nearest whole number on a logarithmic scale. -/

namespace Sys2Proof.Machine

/-! ### The search (R24, R70) -/

/-- The search ends in its range, at a number that passes the test and has a successor that fails it, or
none in the range. -/
theorem searchLargest_spec {test : Nat → Bool} (bits : Nat) {base : Nat} (hbase : test base = true) :
    searchLargest test bits base < base + 2 ^ bits ∧
    test (searchLargest test bits base) = true ∧
    (searchLargest test bits base + 1 < base + 2 ^ bits →
      test (searchLargest test bits base + 1) = false) := by
  induction bits generalizing base with
  | zero =>
    refine ⟨by simp [searchLargest], hbase, fun h => ?_⟩
    simp [searchLargest] at h
  | succ bits ih =>
    rw [searchLargest, Nat.pow_succ]
    by_cases hhalf : test (base + 2 ^ bits) = true
    · obtain ⟨hlt, htest, hnext⟩ := ih hhalf
      rw [if_pos hhalf]
      exact ⟨by omega, htest, fun h => hnext (by omega)⟩
    · obtain ⟨hlt, htest, hnext⟩ := ih hbase
      rw [if_neg hhalf]
      refine ⟨by omega, htest, fun _ => ?_⟩
      by_cases hlast : searchLargest test bits base + 1 < base + 2 ^ bits
      · exact hnext hlast
      · rw [show searchLargest test bits base + 1 = base + 2 ^ bits by omega]
        simpa using hhalf

/-! ### The ratio of a shift (R70) -/

/-- Twice the ratio sought, 2^17 times 2 to the power shift/1,200, with its 1,200th power. -/
theorem doubledRatio_pow {c : Int} (h : -2400 ≤ c) :
    (131072 * (2 : ℝ) ^ ((c : ℝ) / 1200)) ^ Config.octave =
      (2 : ℝ) ^ (c + Config.ratioBias).toNat := by
  have hexponent : (((c + Config.ratioBias).toNat : ℕ) : ℝ) = (c : ℝ) + 20400 := by
    have hcast : (((c + Config.ratioBias).toNat : ℕ) : ℤ) = c + 20400 :=
      Int.toNat_of_nonneg (by rw [Config.ratioBias]; omega)
    exact_mod_cast hcast
  have hbias : (131072 : ℝ) = (2 : ℝ) ^ (17 : ℝ) := by
    rw [show (17 : ℝ) = ((17 : ℕ) : ℝ) by norm_num, Real.rpow_natCast]
    norm_num
  rw [hbias, ← Real.rpow_add (by norm_num), ← Real.rpow_natCast, ← Real.rpow_mul (by norm_num),
    ← Real.rpow_natCast, hexponent]
  congr 1
  rw [Config.octave]
  push_cast
  ring

/-- The ratio's test is that of the half below it. -/
theorem ratioTest_iff {c : Int} (h : -2400 ≤ c) (r : Nat) :
    decide ((2 * r - 1) ^ Config.octave ≤ 2 ^ (c + Config.ratioBias).toNat) = true ↔
      ((2 * r - 1 : Nat) : ℝ) ≤ 131072 * (2 : ℝ) ^ ((c : ℝ) / 1200) := by
  have hcast : (2 * r - 1) ^ Config.octave ≤ 2 ^ (c + Config.ratioBias).toNat ↔
      ((2 * r - 1 : Nat) : ℝ) ^ Config.octave ≤ (2 : ℝ) ^ (c + Config.ratioBias).toNat := by
    constructor
    · intro hle
      exact_mod_cast hle
    · intro hle
      exact_mod_cast hle
  rw [decide_eq_true_iff, hcast, ← doubledRatio_pow h]
  exact pow_le_pow_iff_left₀ (by positivity) (by positivity) (by decide)

/-- A shift within 2,400 cents keeps its doubled ratio below 2^20. -/
theorem doubledRatio_lt {c : Int} (h : c ≤ 2400) :
    131072 * (2 : ℝ) ^ ((c : ℝ) / 1200) ≤ 524288 := by
  have hle : (2 : ℝ) ^ ((c : ℝ) / 1200) ≤ 2 ^ (2 : ℝ) := by
    refine Real.rpow_le_rpow_of_exponent_le (by norm_num) ?_
    have hc : (c : ℝ) ≤ 2400 := by exact_mod_cast h
    linarith
  have hfour : (2 : ℝ) ^ (2 : ℝ) = 4 := by
    rw [show (2 : ℝ) = ((2 : ℕ) : ℝ) by norm_num, Real.rpow_natCast]
    norm_num
  linarith

/-- The ratio's search, by the doubled ratio. -/
theorem ratioOf_spec {c : Int} (hlow : -2400 ≤ c) (hhigh : c ≤ 2400) :
    ((2 * ratioOf c - 1 : Nat) : ℝ) ≤ 131072 * (2 : ℝ) ^ ((c : ℝ) / 1200) ∧
    131072 * (2 : ℝ) ^ ((c : ℝ) / 1200) < ((2 * ratioOf c + 1 : Nat) : ℝ) := by
  have hzero : decide ((2 * 0 - 1) ^ Config.octave ≤ 2 ^ (c + Config.ratioBias).toNat) = true := by
    rw [ratioTest_iff hlow]
    change ((0 : Nat) : ℝ) ≤ _
    rw [Nat.cast_zero]
    positivity
  obtain ⟨_, hfound, hnext⟩ := searchLargest_spec
    (test := fun r => decide ((2 * r - 1) ^ Config.octave ≤ 2 ^ (c + Config.ratioBias).toNat)) 20 hzero
  have hratio : ratioOf c = searchLargest
      (fun r => decide ((2 * r - 1) ^ Config.octave ≤ 2 ^ (c + Config.ratioBias).toNat)) 20 0 := rfl
  rw [← hratio] at hfound hnext
  have hle := (ratioTest_iff hlow _).mp hfound
  have hbounded : 2 * ratioOf c - 1 ≤ 524288 := by exact_mod_cast hle.trans (doubledRatio_lt hhigh)
  refine ⟨hle, ?_⟩
  have hfails := hnext (by omega)
  have hnot : ¬ ((2 * (ratioOf c + 1) - 1 : Nat) : ℝ) ≤ 131072 * (2 : ℝ) ^ ((c : ℝ) / 1200) :=
    fun h => by simp [(ratioTest_iff hlow _).mpr h] at hfails
  rw [show 2 * (ratioOf c + 1) - 1 = 2 * ratioOf c + 1 by omega] at hnot
  exact not_le.mp hnot

/-- Settles O55. -/
theorem ratioRounded : Obligations.RatioRounded := by
  intro c hlow hhigh
  obtain ⟨hbelow, habove⟩ := ratioOf_spec hlow hhigh
  have hhalf : (2 : ℝ) * ratioOf c - 1 ≤ ((2 * ratioOf c - 1 : Nat) : ℝ) := by
    have hnat : (2 * ratioOf c : Nat) ≤ (2 * ratioOf c - 1) + 1 := by omega
    have hcast : ((2 * ratioOf c : Nat) : ℝ) ≤ (((2 * ratioOf c - 1) + 1 : Nat) : ℝ) := by
      exact_mod_cast hnat
    push_cast at hcast
    linarith
  push_cast at habove
  constructor
  · linarith
  · linarith

end Sys2Proof.Machine
end

section
/-! PROOFS. The pitch value of a period, and the parts of the analysis. -/

namespace Sys2Proof.Machine

/-! ### The pitch value (R24, 00_scope section 5.3) -/

/-- The cent search's test, on the logarithmic scale. -/
theorem centTest_iff {a b : Nat} (ha : 0 < a) (hb : 0 < b) (m : Nat) :
    decide (2 ^ (2 * m) * b ^ Config.twoOctaves ≤ a ^ Config.twoOctaves * 2 ^ Config.centBias) = true ↔
      (m : ℝ) ≤ 1200 * Real.logb 2 ((a : ℝ) / b) + 1 / 2 + 8192 := by
  have ha' : (0 : ℝ) < a := by exact_mod_cast ha
  have hb' : (0 : ℝ) < b := by exact_mod_cast hb
  have hcast : 2 ^ (2 * m) * b ^ Config.twoOctaves ≤ a ^ Config.twoOctaves * 2 ^ Config.centBias ↔
      (2 : ℝ) ^ (2 * m) * (b : ℝ) ^ Config.twoOctaves ≤
        (a : ℝ) ^ Config.twoOctaves * (2 : ℝ) ^ Config.centBias := by
    constructor
    · intro hle
      exact_mod_cast hle
    · intro hle
      exact_mod_cast hle
  have htwo : Real.logb 2 2 = 1 := Real.logb_self_eq_one (by norm_num)
  rw [decide_eq_true_iff, hcast, ← Real.logb_le_logb (b := 2) (by norm_num) (by positivity) (by positivity),
    Real.logb_mul (by positivity) (by positivity), Real.logb_mul (by positivity) (by positivity),
    Real.logb_pow, Real.logb_pow, Real.logb_pow, Real.logb_pow, htwo,
    Real.logb_div (by positivity) (by positivity), Config.twoOctaves, Config.centBias]
  push_cast
  constructor
  · intro h
    linarith
  · intro h
    linarith

/-- The cent the search finds: the nearest to the logarithm, with the search's offset. -/
theorem centSearch_eq {a b : Nat} (ha : 0 < a) (hb : 0 < b)
    (hlow : -8192 ≤ 1200 * Real.logb 2 ((a : ℝ) / b))
    (hhigh : 1200 * Real.logb 2 ((a : ℝ) / b) ≤ 8000) :
    ((searchLargest (fun m => decide (2 ^ (2 * m) * b ^ Config.twoOctaves ≤
      a ^ Config.twoOctaves * 2 ^ Config.centBias)) 14 0 : Nat) : Int) =
        ⌊1200 * Real.logb 2 ((a : ℝ) / b) + 1 / 2⌋ + 8192 := by
  have hzero : decide (2 ^ (2 * 0) * b ^ Config.twoOctaves ≤
      a ^ Config.twoOctaves * 2 ^ Config.centBias) = true := by
    rw [centTest_iff ha hb, Nat.cast_zero]
    linarith
  obtain ⟨_, hfound, hnext⟩ := searchLargest_spec
    (test := fun m => decide (2 ^ (2 * m) * b ^ Config.twoOctaves ≤
      a ^ Config.twoOctaves * 2 ^ Config.centBias)) 14 hzero
  generalize searchLargest (fun m => decide (2 ^ (2 * m) * b ^ Config.twoOctaves ≤
    a ^ Config.twoOctaves * 2 ^ Config.centBias)) 14 0 = m at hfound hnext ⊢
  have hle := (centTest_iff ha hb m).mp hfound
  have hbounded : m < 16193 := by
    have hm : (m : ℝ) < 16193 := by linarith
    exact_mod_cast hm
  have hlt : 1200 * Real.logb 2 ((a : ℝ) / b) + 1 / 2 + 8192 < (m : ℝ) + 1 := by
    by_contra hge
    have hpasses := (centTest_iff ha hb (m + 1)).mpr (by push_cast; exact not_lt.mp hge)
    have hfails := hnext (by omega)
    rw [hpasses] at hfails
    exact Bool.noConfusion hfails
  have hfloor : ⌊1200 * Real.logb 2 ((a : ℝ) / b) + 1 / 2⌋ = (m : Int) - 8192 := by
    rw [Int.floor_eq_iff]
    push_cast
    constructor
    · linarith
    · linarith
  omega

/-- The frequencies a period can have keep their cents in the search's range. -/
theorem logb_ratio_bounds {rate period : Nat} (hrate : 8000 ≤ rate) (hrate' : rate ≤ 96000)
    (hperiod : 256 ≤ period) (hperiod' : period ≤ 16384) :
    -6 ≤ Real.logb 2 (((16 * rate : Nat) : ℝ) / ((440 * period : Nat) : ℝ)) ∧
    Real.logb 2 (((16 * rate : Nat) : ℝ) / ((440 * period : Nat) : ℝ)) ≤ 4 := by
  have hrateLow : (8000 : ℝ) ≤ rate := by exact_mod_cast hrate
  have hrateHigh : (rate : ℝ) ≤ 96000 := by exact_mod_cast hrate'
  have hperiodLow : (256 : ℝ) ≤ period := by exact_mod_cast hperiod
  have hperiodHigh : (period : ℝ) ≤ 16384 := by exact_mod_cast hperiod'
  have hden : (0 : ℝ) < ((440 * period : Nat) : ℝ) := by
    push_cast
    linarith
  have hnum : (0 : ℝ) < ((16 * rate : Nat) : ℝ) := by
    push_cast
    linarith
  have hlow : (2 : ℝ) ^ (-6 : ℝ) = 1 / 64 := by
    rw [Real.rpow_neg (by norm_num), show (6 : ℝ) = ((6 : ℕ) : ℝ) by norm_num, Real.rpow_natCast]
    norm_num
  have hhigh : (2 : ℝ) ^ (4 : ℝ) = 16 := by
    rw [show (4 : ℝ) = ((4 : ℕ) : ℝ) by norm_num, Real.rpow_natCast]
    norm_num
  constructor
  · rw [Real.le_logb_iff_rpow_le (by norm_num) (div_pos hnum hden), hlow, le_div_iff₀ hden]
    push_cast
    linarith
  · rw [Real.logb_le_iff_le_rpow (by norm_num) (div_pos hnum hden), hhigh, div_le_iff₀ hden]
    push_cast
    linarith

/-- The pitch value of a period: the nearest cent, tuned and clamped. -/
theorem pitchValue_eq {rate period : Nat} (tuning : Int) (hrate : 8000 ≤ rate) (hrate' : rate ≤ 96000)
    (hperiod : 256 ≤ period) (hperiod' : period ≤ 16384) :
    (pitchValue rate period tuning : Int) =
      max 0 (min 12799 (6900 +
        ⌊1200 * Real.logb 2 ((16 * (rate : ℝ)) / (440 * (period : ℝ))) + 1 / 2⌋ + tuning)) := by
  obtain ⟨hlow, hhigh⟩ := logb_ratio_bounds hrate hrate' hperiod hperiod'
  have hcent := centSearch_eq (a := 16 * rate) (b := 440 * period) (by omega) (by omega)
    (by linarith) (by linarith)
  have hratio : ((16 * rate : Nat) : ℝ) / ((440 * period : Nat) : ℝ) =
      (16 * (rate : ℝ)) / (440 * (period : ℝ)) := by push_cast; rfl
  rw [hratio] at hcent
  unfold pitchValue
  dsimp only
  rw [hcent, saturate_eq (by omega)]
  generalize ⌊1200 * Real.logb 2 ((16 * (rate : ℝ)) / (440 * (period : ℝ))) + 1 / 2⌋ = cents
  omega

/-! ### Peak and headroom (R20) -/

theorem foldl_max_spec (l : List Int) (m : Nat) :
    m ≤ l.foldl (fun m v => max m v.natAbs) m ∧
    (∀ v ∈ l, v.natAbs ≤ l.foldl (fun m v => max m v.natAbs) m) ∧
    (l.foldl (fun m v => max m v.natAbs) m = m ∨
      ∃ v ∈ l, v.natAbs = l.foldl (fun m v => max m v.natAbs) m) := by
  induction l generalizing m with
  | nil => exact ⟨le_refl m, fun v hv => by simp at hv, Or.inl rfl⟩
  | cons x rest ih =>
    obtain ⟨hle, hall, hreached⟩ := ih (max m x.natAbs)
    rw [List.foldl_cons]
    refine ⟨le_trans (Nat.le_max_left m x.natAbs) hle, fun v hv => ?_, ?_⟩
    · rcases List.mem_cons.mp hv with rfl | hv
      · exact le_trans (Nat.le_max_right m v.natAbs) hle
      · exact hall v hv
    · rcases hreached with heq | ⟨v, hv, heq⟩
      · rcases Nat.le_total m x.natAbs with h | h
        · exact Or.inr ⟨x, List.mem_cons_self, by rw [heq, Nat.max_eq_right h]⟩
        · exact Or.inl (by rw [heq, Nat.max_eq_left h])
      · exact Or.inr ⟨v, List.mem_cons_of_mem x hv, heq⟩

/-- The peak of a list of samples: no sample is larger, and one is as large. -/
theorem peakOf_spec (l : List Int) :
    (∀ j, (l.getD j 0).natAbs ≤ peakOf l) ∧ ∃ j, (l.getD j 0).natAbs = peakOf l := by
  obtain ⟨_, hall, hreached⟩ := foldl_max_spec l 0
  change (∀ v ∈ l, v.natAbs ≤ peakOf l) at hall
  change peakOf l = 0 ∨ ∃ v ∈ l, v.natAbs = peakOf l at hreached
  refine ⟨fun j => ?_, ?_⟩
  · rcases Nat.lt_or_ge j l.length with h | h
    · rw [List.getD_eq_getElem l 0 h]
      exact hall _ (List.getElem_mem h)
    · rw [List.getD_eq_default l 0 h]
      exact Nat.zero_le _
  · rcases hreached with hzero | ⟨v, hv, heq⟩
    · exact ⟨l.length, by rw [List.getD_eq_default l 0 (le_refl _), hzero]; rfl⟩
    · obtain ⟨j, hj, rfl⟩ := List.mem_iff_getElem.mp hv
      exact ⟨j, by rw [List.getD_eq_getElem l 0 hj, heq]⟩

/-- The headroom: the shifts that bring the peak to 2^22 (R20). -/
theorem headroomOf_spec (peak : Nat) :
    (peak = 0 → headroomOf peak = 23) ∧ (4194304 ≤ peak → headroomOf peak = 0) ∧
    (0 < peak → peak < 4194304 → 1 ≤ headroomOf peak ∧ headroomOf peak ≤ 22 ∧
      4194304 ≤ peak * 2 ^ headroomOf peak ∧ peak * 2 ^ (headroomOf peak - 1) < 4194304) := by
  refine ⟨fun h => if_pos h, fun h => ?_, fun hpos hlt => ?_⟩
  · have hlog : 22 ≤ Nat.log2 peak := (Nat.le_log2 (by omega)).mpr (by omega)
    rw [headroomOf, if_neg (by omega)]
    omega
  · have hne : peak ≠ 0 := by omega
    have hlog : Nat.log2 peak < 22 := (Nat.log2_lt hne).mpr (by omega)
    have hbelow : 2 ^ Nat.log2 peak ≤ peak := Nat.log2_self_le hne
    have habove : peak < 2 ^ (Nat.log2 peak + 1) := Nat.lt_log2_self
    rw [headroomOf, if_neg hne]
    generalize Nat.log2 peak = l at hlog hbelow habove
    have hlow : 2 ^ l * 2 ^ (22 - l) = 4194304 := by
      rw [← pow_add, show l + (22 - l) = 22 by omega]
      norm_num
    have hhigh : 2 ^ (l + 1) * 2 ^ (22 - l - 1) = 4194304 := by
      rw [← pow_add, show l + 1 + (22 - l - 1) = 22 by omega]
      norm_num
    refine ⟨by omega, by omega, ?_, ?_⟩
    · rw [← hlow]
      exact Nat.mul_le_mul_right _ hbelow
    · rw [← hhigh]
      exact Nat.mul_lt_mul_of_pos_right habove (by positivity)

end Sys2Proof.Machine
end

section
/-! PROOFS. The analysis of a frame: differences, the chosen lag, the period and the confidence. -/

namespace Sys2Proof.Machine

/-! ### Differences, normalised (R21) -/

/-- The difference of a frame at a lag, as a sum over its newest half. -/
theorem difference_eq {x : List Int} {lag : Nat} (hlength : x.length = 2048) (hlag : lag ≤ 1024) :
    difference x lag = ∑ j ∈ Finset.range 1024, (x.getD j 0 - x.getD (j + lag) 0).natAbs := by
  have hlist : List.zipWith (fun a b : Int => (a - b).natAbs) (x.take 1024) (x.drop lag) =
      (List.range 1024).map fun j => (x.getD j 0 - x.getD (j + lag) 0).natAbs := by
    refine List.ext_getElem ?_ fun j hj hj' => ?_
    · simp only [List.length_zipWith, List.length_take, List.length_drop, List.length_map,
        List.length_range, hlength]
      omega
    · have hshort : j < 1024 := by simpa using hj'
      rw [List.getElem_zipWith, List.getElem_take, List.getElem_drop, List.getElem_map,
        List.getElem_range, List.getD_eq_getElem x 0 (by omega), List.getD_eq_getElem x 0 (by omega)]
      simp only [Nat.add_comm lag j]
  rw [difference, hlist]
  rfl

theorem length_normalise (ds : List Nat) (index sum : Nat) :
    (normalise ds index sum).length = ds.length := by
  induction ds generalizing index sum with
  | nil => rfl
  | cons d rest ih => rw [normalise, List.length_cons, List.length_cons, ih]

/-- A normalised difference, by the sum of the differences up to it. -/
theorem normalise_getD {ds : List Nat} {k : Nat} (hk : k < ds.length) (index sum : Nat) :
    (normalise ds index sum).getD k 0 =
      if sum + (ds.take (k + 1)).sum = 0 then 65536
      else ds.getD k 0 * (index + k + 1) * 65536 / (sum + (ds.take (k + 1)).sum) := by
  induction ds generalizing index sum k with
  | nil => simp at hk
  | cons d rest ih =>
    rw [normalise]
    cases k with
    | zero => simp
    | succ k =>
      have hk' : k < rest.length := by simpa using hk
      rw [List.getD_cons_succ, ih hk', List.take_succ_cons, List.sum_cons, List.getD_cons_succ,
        Nat.add_assoc sum d, show index + 1 + k + 1 = index + (k + 1) + 1 by omega]

/-- The differences of the lags from TMIN to TMAX. -/
def lagDifferences (d : Nat → Nat) (tmin tmax : Nat) : List Nat :=
  (List.range' tmin (tmax + 1 - tmin)).map d

section
variable (d : Nat → Nat) {tmin tmax k : Nat}

theorem length_lagDifferences : (lagDifferences d tmin tmax).length = tmax + 1 - tmin := by
  simp [lagDifferences]

theorem lagDifferences_getD (hk : k < tmax + 1 - tmin) :
    (lagDifferences d tmin tmax).getD k 0 = d (tmin + k) := by
  rw [List.getD_eq_getElem _ 0 (by rw [length_lagDifferences]; exact hk)]
  simp [lagDifferences]

theorem lagDifferences_sum (hk : k < tmax + 1 - tmin) :
    ((lagDifferences d tmin tmax).take (k + 1)).sum = ∑ u ∈ Finset.Icc tmin (tmin + k), d u := by
  have htake : (lagDifferences d tmin tmax).take (k + 1) =
      (List.range (k + 1)).map fun i => d (tmin + i) := by
    rw [lagDifferences, ← List.map_take, List.range'_eq_map_range, ← List.map_take, List.take_range,
      Nat.min_eq_left (by omega), List.map_map]
    rfl
  have hset : Finset.Icc tmin (tmin + k) = Finset.Ico tmin (tmin + k + 1) := by
    ext u
    simp only [Finset.mem_Icc, Finset.mem_Ico]
    omega
  rw [htake, hset, Finset.sum_Ico_eq_sum_range, show tmin + k + 1 - tmin = k + 1 by omega]
  rfl

end

/-- The normalised difference of a lag, held in 1/65,536 (R21). -/
def heldAt (d : Nat → Nat) (tmin lag : Nat) : Nat :=
  if ∑ u ∈ Finset.Icc tmin lag, d u = 0 then 65536
  else d lag * (lag - tmin + 1) * 65536 / ∑ u ∈ Finset.Icc tmin lag, d u

theorem normalise_lagDifferences (d : Nat → Nat) {tmin tmax k : Nat} (hk : k < tmax + 1 - tmin) :
    (normalise (lagDifferences d tmin tmax) 0 0).getD k 0 = heldAt d tmin (tmin + k) := by
  rw [normalise_getD (by rw [length_lagDifferences]; exact hk), lagDifferences_sum d hk,
    lagDifferences_getD d hk, Nat.zero_add, Nat.zero_add, heldAt, Nat.add_sub_cancel_left]

/-! ### The chosen lag (R22) -/

/-- A run followed down: strictly falling to its bottom, not falling after it (R22, step 2). -/
theorem followDip_spec {ns : List Nat} (hns : ns ≠ []) (index : Nat) :
    ∃ j, followDip ns index = index + j ∧ j < ns.length ∧
      (∀ i < j, ns.getD (i + 1) 0 < ns.getD i 0) ∧
      (j + 1 < ns.length → ns.getD j 0 ≤ ns.getD (j + 1) 0) := by
  induction ns generalizing index with
  | nil => contradiction
  | cons a rest ih =>
    cases rest with
    | nil => exact ⟨0, rfl, by simp, fun i hi => by omega, fun h => by simp at h⟩
    | cons b more =>
      by_cases hfalls : b < a
      · obtain ⟨j, hj, hlt, hrun, hbottom⟩ := ih (by simp) (index + 1)
        refine ⟨j + 1, ?_, by simpa using hlt, fun i hi => ?_, fun h => ?_⟩
        · rw [followDip, if_pos hfalls, hj]
          omega
        · cases i with
          | zero => exact hfalls
          | succ i => exact hrun i (by omega)
        · exact hbottom (by simpa using h)
      · refine ⟨0, ?_, by simp, fun i hi => by omega, fun _ => not_lt.mp hfalls⟩
        rw [followDip, if_neg hfalls]
        rfl

/-- The first dip below a threshold, to its bottom (R22, steps 1 and 2). -/
theorem firstDip_spec (threshold : Nat) (ns : List Nat) (index : Nat) :
    (firstDip threshold ns index = none ∧ ∀ i < ns.length, threshold ≤ ns.getD i 0) ∨
    ∃ f j, firstDip threshold ns index = some (index + j) ∧ f ≤ j ∧ j < ns.length ∧
      ns.getD f 0 < threshold ∧ (∀ i < f, threshold ≤ ns.getD i 0) ∧
      (∀ i, f ≤ i → i < j → ns.getD (i + 1) 0 < ns.getD i 0) ∧
      (j + 1 < ns.length → ns.getD j 0 ≤ ns.getD (j + 1) 0) := by
  induction ns generalizing index with
  | nil => exact Or.inl ⟨rfl, fun i hi => by simp at hi⟩
  | cons a rest ih =>
    by_cases hdip : a < threshold
    · obtain ⟨j, hj, hlt, hrun, hbottom⟩ := followDip_spec (ns := a :: rest) (by simp) index
      refine Or.inr ⟨0, j, ?_, Nat.zero_le j, hlt, hdip, fun i hi => by omega,
        fun i _ hi => hrun i hi, hbottom⟩
      rw [firstDip, if_pos hdip, hj]
    · rw [firstDip, if_neg hdip]
      rcases ih (index + 1) with ⟨hnone, hall⟩ | ⟨f, j, hsome, hfj, hlt, hf, hbefore, hrun, hbottom⟩
      · refine Or.inl ⟨hnone, fun i hi => ?_⟩
        cases i with
        | zero => exact not_lt.mp hdip
        | succ i => exact hall i (by simpa using hi)
      · refine Or.inr ⟨f + 1, j + 1, ?_, by omega, by simpa using hlt, hf, fun i hi => ?_,
          fun i hfi hij => ?_, fun h => hbottom (by simpa using h)⟩
        · rw [hsome, show index + (j + 1) = index + 1 + j by omega]
        · cases i with
          | zero => exact not_lt.mp hdip
          | succ i => exact hbefore i (by omega)
        · cases i with
          | zero => omega
          | succ i => exact hrun i (by omega) (by omega)

/-- The least of a list, the first on a tie, where it is below the best so far (R22, step 3). -/
theorem leastIndex_spec (ns : List Nat) (index best bestIndex : Nat) :
    (leastIndex ns index best bestIndex = bestIndex ∧ ∀ i < ns.length, best ≤ ns.getD i 0) ∨
    ∃ j, leastIndex ns index best bestIndex = index + j ∧ j < ns.length ∧ ns.getD j 0 < best ∧
      (∀ i < ns.length, ns.getD j 0 ≤ ns.getD i 0) ∧ ∀ i < j, ns.getD j 0 < ns.getD i 0 := by
  induction ns generalizing index best bestIndex with
  | nil => exact Or.inl ⟨rfl, fun i hi => by simp at hi⟩
  | cons a rest ih =>
    by_cases hbetter : a < best
    · rw [leastIndex, if_pos hbetter]
      rcases ih (index + 1) a index with ⟨hkept, hall⟩ | ⟨j, hj, hlt, hless, hall, hfirst⟩
      · refine Or.inr ⟨0, hkept, by simp, hbetter, fun i hi => ?_, fun i hi => by omega⟩
        cases i with
        | zero => exact le_refl a
        | succ i => exact hall i (by simpa using hi)
      · refine Or.inr ⟨j + 1, by rw [hj]; omega, by simpa using hlt, lt_trans hless hbetter,
          fun i hi => ?_, fun i hi => ?_⟩
        · cases i with
          | zero => exact le_of_lt hless
          | succ i => exact hall i (by simpa using hi)
        · cases i with
          | zero => exact hless
          | succ i => exact hfirst i (by omega)
    · rw [leastIndex, if_neg hbetter]
      rcases ih (index + 1) best bestIndex with ⟨hkept, hall⟩ | ⟨j, hj, hlt, hless, hall, hfirst⟩
      · refine Or.inl ⟨hkept, fun i hi => ?_⟩
        cases i with
        | zero => exact not_lt.mp hbetter
        | succ i => exact hall i (by simpa using hi)
      · have hfirstLess : rest.getD j 0 < a := lt_of_lt_of_le hless (not_lt.mp hbetter)
        refine Or.inr ⟨j + 1, by rw [hj]; omega, by simpa using hlt, hless, fun i hi => ?_,
          fun i hi => ?_⟩
        · cases i with
          | zero => exact le_of_lt hfirstLess
          | succ i => exact hall i (by simpa using hi)
        · cases i with
          | zero => exact hfirstLess
          | succ i => exact hfirst i (by omega)

/-- The chosen lag: the bottom of the first dip below the threshold, or the least, the lowest of a tie
(R22). -/
theorem chooseLag_spec {ns : List Nat} (hns : ns ≠ []) (threshold : Nat) :
    chooseLag threshold ns < ns.length ∧
    (∀ f < ns.length, ns.getD f 0 < threshold → (∀ i < f, threshold ≤ ns.getD i 0) →
      f ≤ chooseLag threshold ns ∧
      (∀ i, f ≤ i → i < chooseLag threshold ns → ns.getD (i + 1) 0 < ns.getD i 0) ∧
      (chooseLag threshold ns + 1 < ns.length →
        ns.getD (chooseLag threshold ns) 0 ≤ ns.getD (chooseLag threshold ns + 1) 0)) ∧
    ((∀ i < ns.length, threshold ≤ ns.getD i 0) →
      (∀ i < ns.length, ns.getD (chooseLag threshold ns) 0 ≤ ns.getD i 0) ∧
      ∀ i < chooseLag threshold ns, ns.getD (chooseLag threshold ns) 0 < ns.getD i 0) := by
  have hpos : 0 < ns.length := List.length_pos_iff.mpr hns
  rcases firstDip_spec threshold ns 0 with
    ⟨hnone, hall⟩ | ⟨f, j, hsome, hfj, hlt, hf, hbefore, hrun, hbottom⟩
  · have hchosen : chooseLag threshold ns = leastIndex ns 0 (ns.headD 0) 0 := by
      rw [chooseLag, hnone]
    have hhead : ns.headD 0 = ns.getD 0 0 := by cases ns <;> rfl
    rw [hchosen]
    have hnoDip : ∀ g < ns.length, ¬ ns.getD g 0 < threshold := fun g hg => not_lt.mpr (hall g hg)
    rcases leastIndex_spec ns 0 (ns.headD 0) 0 with ⟨hkept, hleast⟩ | ⟨j, hj, hlt, _, hleast, hfirst⟩
    · rw [hkept]
      refine ⟨hpos, fun g hg hdip => absurd hdip (hnoDip g hg), fun _ => ⟨fun i hi => ?_,
        fun i hi => by omega⟩⟩
      rw [← hhead]
      exact hleast i hi
    · rw [hj, Nat.zero_add]
      exact ⟨hlt, fun g hg hdip => absurd hdip (hnoDip g hg), fun _ => ⟨hleast, hfirst⟩⟩
  · have hchosen : chooseLag threshold ns = j := by
      rw [chooseLag, hsome]
      exact Nat.zero_add j
    rw [hchosen]
    refine ⟨hlt, fun g hg hdip hgbefore => ?_, fun hall => ?_⟩
    · have hsame : g = f := by
        rcases lt_trichotomy g f with h | h | h
        · exact absurd hdip (not_lt.mpr (hbefore g h))
        · exact h
        · exact absurd hf (not_lt.mpr (hgbefore f h))
      rw [hsame]
      exact ⟨hfj, hrun, hbottom⟩
    · exact absurd hf (not_lt.mpr (hall f (by omega)))

/-! ### The period (R23) and the confidence (R24) -/

/-- A rational held to a range and rounded is its rounding held to the range. -/
theorem floor_clamped (y : ℚ) (n : Int) :
    ⌊(n : ℚ) + max (-8) (min 8 y) + 1 / 2⌋ = n + max (-8) (min 8 ⌊y + 1 / 2⌋) := by
  have hshift : (n : ℚ) + max (-8) (min 8 y) + 1 / 2 = (max (-8) (min 8 y) + 1 / 2) + (n : ℚ) := by ring
  rw [hshift, Int.floor_add_intCast]
  have hclamped : ⌊max (-8) (min 8 y) + 1 / 2⌋ = max (-8) (min 8 ⌊y + 1 / 2⌋) := by
    rcases le_total y (-8) with hlow | hlow
    · have hfloor : ⌊y + 1 / 2⌋ ≤ -8 := by
        have hle : ⌊y + 1 / 2⌋ < -7 := Int.floor_lt.mpr (by push_cast; linarith)
        omega
      rw [min_eq_right (by linarith), max_eq_left hlow, min_eq_right (by omega),
        max_eq_left hfloor]
      norm_num
    · rcases le_total y 8 with hhigh | hhigh
      · have hbelow : -8 ≤ ⌊y + 1 / 2⌋ := Int.le_floor.mpr (by push_cast; linarith)
        have habove : ⌊y + 1 / 2⌋ < 9 := Int.floor_lt.mpr (by push_cast; linarith)
        rw [min_eq_right hhigh, max_eq_right hlow, min_eq_right (by omega), max_eq_right hbelow]
      · have habove : 8 ≤ ⌊y + 1 / 2⌋ := Int.le_floor.mpr (by push_cast; linarith)
        rw [min_eq_left hhigh, max_eq_right (by norm_num), min_eq_left habove,
          max_eq_right (by omega)]
        norm_num
  rw [hclamped]
  omega

/-- The vertex of a parabola through three differences, in 1/16 samples, held to half a sample (R23). -/
theorem vertex_floor (a c den : Int) (lag : Nat) (hden : 0 < den) :
    ⌊16 * ((lag : ℚ) + max (-1 / 2) (min (1 / 2) (((a : ℚ) - c) / (2 * den)))) + 1 / 2⌋ =
      16 * (lag : Int) + max (-8) (min 8 ((16 * (a - c) + den) / (2 * den))) := by
  have hdenq : (0 : ℚ) < den := by exact_mod_cast hden
  have hscaled : 16 * ((lag : ℚ) + max (-1 / 2) (min (1 / 2) (((a : ℚ) - c) / (2 * den)))) =
      ((16 * lag : Int) : ℚ) + max (-8) (min 8 (16 * (((a : ℚ) - c) / (2 * den)))) := by
    rw [mul_add, mul_max_of_nonneg _ _ (by norm_num), mul_min_of_nonneg _ _ (by norm_num)]
    push_cast
    norm_num
  have hdivided : ⌊16 * (((a : ℚ) - c) / (2 * den)) + 1 / 2⌋ = (16 * (a - c) + den) / (2 * den) := by
    have hnat : ((2 * den).toNat : Int) = 2 * den := Int.toNat_of_nonneg (by omega)
    have hnatq : (((2 * den).toNat : Nat) : ℚ) = 2 * (den : ℚ) := by exact_mod_cast hnat
    have hquotient : 16 * (((a : ℚ) - c) / (2 * den)) + 1 / 2 =
        ((16 * (a - c) + den : Int) : ℚ) / (((2 * den).toNat : Nat) : ℚ) := by
      rw [hnatq]
      push_cast
      field_simp
    rw [hquotient, Rat.floor_intCast_div_natCast, hnat]
  rw [hscaled, floor_clamped, hdivided]

/-- The period in 1/16 samples: the chosen lag, refined between the ends of the range where the curvature
is positive (R23). -/
theorem refinePeriod_eq (d : Nat → Nat) {tmin tmax index : Nat} (hindex : index < tmax + 1 - tmin) :
    let lag := tmin + index
    let a : ℚ := d (lag - 1)
    let c : ℚ := d (lag + 1)
    let den : ℚ := a - 2 * d lag + c
    (refinePeriod (lagDifferences d tmin tmax) tmin index : Int) =
      if tmin < lag ∧ lag < tmax ∧ 0 < den then
        ⌊16 * (lag + max (-1 / 2) (min (1 / 2) ((a - c) / (2 * den)))) + 1 / 2⌋
      else 16 * lag := by
  intro lag a c den
  have hden : ((((d (lag - 1) : Nat) : Int) - 2 * ((d lag : Nat) : Int) + ((d (lag + 1) : Nat) : Int) :
      Int) : ℚ) = den := by
    push_cast
    rfl
  unfold refinePeriod
  rw [length_lagDifferences]
  by_cases hinner : 1 ≤ index ∧ index + 1 < tmax + 1 - tmin
  · have hbefore : (lagDifferences d tmin tmax).getD (index - 1) 0 = d (lag - 1) := by
      rw [lagDifferences_getD d (by omega), show tmin + (index - 1) = lag - 1 by omega]
    have hafter : (lagDifferences d tmin tmax).getD (index + 1) 0 = d (lag + 1) := by
      rw [lagDifferences_getD d (by omega), ← Nat.add_assoc]
    have hhere : (lagDifferences d tmin tmax).getD index 0 = d lag := lagDifferences_getD d hindex
    rw [if_pos hinner, hbefore, hafter, hhere]
    dsimp only
    by_cases hcurved : 0 < ((d (lag - 1) : Nat) : Int) - 2 * ((d lag : Nat) : Int) +
        ((d (lag + 1) : Nat) : Int)
    · have hcurvedq : 0 < den := by
        rw [← hden]
        exact_mod_cast hcurved
      have hvertex := vertex_floor (d (lag - 1)) (d (lag + 1)) _ lag hcurved
      rw [hden] at hvertex
      rw [if_pos hcurved, if_pos ⟨by omega, by omega, hcurvedq⟩, saturate_eq (by omega)]
      refine Eq.trans ?_ hvertex.symm
      omega
    · have hflat : ¬ 0 < den := fun h => hcurved (by rw [← hden] at h; exact_mod_cast h)
      rw [if_neg hcurved, if_neg fun h => hflat h.2.2]
      push_cast
      rfl
  · rw [if_neg hinner, if_neg fun h => hinner ⟨by omega, by omega⟩]
    push_cast
    rfl

/-- The confidence of a held difference (R24). -/
theorem confidenceOf_eq (held : Nat) :
    (confidenceOf held : Int) = 255 - min 255 ⌊(255 * held / 65536 : ℚ) + 1 / 2⌋ := by
  have hhalf := floor_half_up (255 * held) 65536 (by omega)
  push_cast at hhalf
  rw [← hhalf, confidenceOf]
  omega

end Sys2Proof.Machine
end

section
/-! PROOFS. The whole analysis of a frame. -/

namespace Sys2Proof.Machine

/-- A sample of a frame, newest first; beyond the frame none. -/
def frameSample (x : Analysis) (j : Nat) : Int := (x.frame.getD j 0).toInt

theorem samples_getD (x : Analysis) (j : Nat) :
    (x.frame.map BitVec.toInt).getD j 0 = frameSample x j := by
  have hmap := List.getD_map (f := BitVec.toInt) (l := x.frame) (d := (0 : Sample)) (n := j)
  exact hmap

theorem shifted_getD (x : Analysis) (h j : Nat) :
    ((x.frame.map BitVec.toInt).map (fun v => v * 2 ^ h)).getD j 0 = frameSample x j * 2 ^ h := by
  have hmap := List.getD_map (f := fun v : Int => v * 2 ^ h) (l := x.frame.map BitVec.toInt) (d := 0)
    (n := j)
  rw [Int.zero_mul, samples_getD] at hmap
  exact hmap

/-- The difference of a frame at a lag, its samples shifted left (R20, R21). -/
def frameDifference (x : Analysis) (h lag : Nat) : Nat :=
  ∑ j ∈ Finset.range 1024, ((frameSample x j - frameSample x (j + lag)) * 2 ^ h).natAbs

/-- The differences the analysis takes are those of its frame. -/
theorem analysis_differences {x : Analysis} (hframe : x.frame.length = 2048) (h : Nat) {tmin tmax : Nat}
    (htmax : tmax ≤ 1024) :
    (List.range' tmin (tmax + 1 - tmin)).map
      (difference ((x.frame.map BitVec.toInt).map (fun v => v * 2 ^ h))) =
        lagDifferences (frameDifference x h) tmin tmax := by
  refine List.map_congr_left fun lag hlag => ?_
  rw [List.mem_range'_1] at hlag
  rw [difference_eq (by simpa using hframe) (by omega)]
  refine Finset.sum_congr rfl fun j _ => ?_
  rw [shifted_getD, shifted_getD, ← sub_mul]

/-- The record of a silent frame (R20). -/
theorem analyse_silent {x : Analysis}
    (h : x.params.silence < headroomOf (peakOf (x.frame.map BitVec.toInt))) :
    analyse x = ⟨x.stamp, false, true, none, none, 0,
      headroomOf (peakOf (x.frame.map BitVec.toInt))⟩ := if_pos h

/-- The record of a frame that is not silent, by its differences (R21 to R25). -/
theorem analyse_heard {x : Analysis} (hframe : x.frame.length = 2048) (htmax : x.params.tmax ≤ 1024)
    {h : Nat} (hheadroom : headroomOf (peakOf (x.frame.map BitVec.toInt)) = h)
    (hheard : h ≤ x.params.silence) :
    let q := x.params
    let ds := lagDifferences (frameDifference x h) q.tmin q.tmax
    let ns := normalise ds 0 0
    let index := chooseLag (q.diffThreshold * 256) ns
    let held := ns.getD index 0
    let period := refinePeriod ds q.tmin index
    let confidence := confidenceOf held
    analyse x =
      if held < q.diffThreshold * 256 ∧ q.voicing ≤ confidence then
        ⟨x.stamp, true, false, some period, some (pitchValue q.sampleRate period q.tuning),
          confidence, h⟩
      else ⟨x.stamp, false, false, some period, none, confidence, h⟩ := by
  intro q ds ns index held period confidence
  have hds := analysis_differences hframe h (tmin := q.tmin) htmax
  unfold analyse
  dsimp only
  rw [hheadroom, if_neg (not_lt.mpr hheard), hds]
  by_cases hvoiced : held < q.diffThreshold * 256 ∧ q.voicing ≤ confidence
  · rw [if_pos hvoiced, decide_eq_true hvoiced]
    rfl
  · rw [if_neg hvoiced, decide_eq_false hvoiced]
    rfl

/-- The lag chosen from a frame's differences, as a lag (R22). -/
theorem chosenLag_spec (d : Nat → Nat) {tmin tmax : Nat} (hrange : tmin < tmax) (threshold : Nat) :
    let lag := tmin + chooseLag threshold (normalise (lagDifferences d tmin tmax) 0 0)
    let held (u : Nat) : Nat := heldAt d tmin u
    tmin ≤ lag ∧ lag ≤ tmax ∧
    (∀ first, tmin ≤ first → first ≤ tmax → held first < threshold →
      (∀ u, tmin ≤ u → u < first → threshold ≤ held u) →
      first ≤ lag ∧ (∀ u, first ≤ u → u < lag → held (u + 1) < held u) ∧
        (lag < tmax → held lag ≤ held (lag + 1))) ∧
    ((∀ u, tmin ≤ u → u ≤ tmax → threshold ≤ held u) →
      (∀ u, tmin ≤ u → u ≤ tmax → held lag ≤ held u) ∧
        ∀ u, tmin ≤ u → u < lag → held lag < held u) := by
  have hlength : (normalise (lagDifferences d tmin tmax) 0 0).length = tmax + 1 - tmin := by
    rw [length_normalise, length_lagDifferences]
  have hns : normalise (lagDifferences d tmin tmax) 0 0 ≠ [] := fun hnil => by
    rw [hnil, List.length_nil] at hlength
    omega
  have hat : ∀ u, tmin ≤ u → u ≤ tmax →
      (normalise (lagDifferences d tmin tmax) 0 0).getD (u - tmin) 0 = heldAt d tmin u :=
    fun u hlow hhigh => by
      rw [normalise_lagDifferences d (by omega), show tmin + (u - tmin) = u by omega]
  obtain ⟨hlt, hdip, hleast⟩ := chooseLag_spec hns threshold
  rw [hlength] at hlt hdip hleast
  generalize chooseLag threshold (normalise (lagDifferences d tmin tmax) 0 0) = k at hlt hdip hleast
  generalize normalise (lagDifferences d tmin tmax) 0 0 = ns at hat hdip hleast
  have hindex : ∀ i, i < tmax + 1 - tmin → ns.getD i 0 = heldAt d tmin (tmin + i) := fun i hi => by
    rw [← hat (tmin + i) (by omega) (by omega), Nat.add_sub_cancel_left]
  intro lag held
  refine ⟨by omega, by omega, fun first hlow hhigh hbelow hbefore => ?_, fun hall => ⟨fun u hlow hhigh => ?_,
    fun u hlow hhigh => ?_⟩⟩
  · obtain ⟨hle, hrun, hbottom⟩ := hdip (first - tmin) (by omega)
      (by rw [hat first hlow hhigh]; exact hbelow)
      (fun i hi => by rw [hindex i (by omega)]; exact hbefore (tmin + i) (by omega) (by omega))
    refine ⟨by omega, fun u hu hul => ?_, fun hlast => ?_⟩
    · have hfalls := hrun (u - tmin) (by omega) (by omega)
      rwa [show u - tmin + 1 = u + 1 - tmin by omega, hat (u + 1) (by omega) (by omega),
        hat u (by omega) (by omega)] at hfalls
    · have hrises := hbottom (by omega)
      rwa [hindex k hlt, hindex (k + 1) (by omega), ← Nat.add_assoc] at hrises
  · have hle := (hleast fun i hi => by rw [hindex i hi]; exact hall (tmin + i) (by omega) (by omega)).1
      (u - tmin) (by omega)
    rwa [hindex k hlt, hat u hlow hhigh] at hle
  · have hfirst := (hleast fun i hi => by
      rw [hindex i hi]; exact hall (tmin + i) (by omega) (by omega)).2 (u - tmin) (by omega)
    rwa [hindex k hlt, hat u hlow (by omega)] at hfirst

/-- Settles O40. -/
theorem pitchValueRounded : Obligations.PitchValueRounded := by
  refine ⟨fun rate period tuning hrate hrate' hperiod hperiod' =>
    pitchValue_eq tuning hrate hrate' hperiod hperiod', fun x hframe hrange htmax => ?_⟩
  intro q sample
  obtain ⟨hpeak, hreached⟩ := peakOf_spec (x.frame.map BitVec.toInt)
  obtain ⟨hsilent, hloud, hshifts⟩ := headroomOf_spec (peakOf (x.frame.map BitVec.toInt))
  refine ⟨peakOf (x.frame.map BitVec.toInt), headroomOf (peakOf (x.frame.map BitVec.toInt)),
    fun j => ?_, ?_, hsilent, hloud, hshifts, analyse_silent, fun hheard => ?_⟩
  · have hle := hpeak j
    rwa [samples_getD] at hle
  · obtain ⟨j, hj⟩ := hreached
    rw [samples_getD] at hj
    exact ⟨j, hj⟩
  · generalize hheadroom : headroomOf (peakOf (x.frame.map BitVec.toInt)) = h at hheard ⊢
    have hanalyse := analyse_heard hframe htmax hheadroom hheard
    obtain ⟨hlow, hhigh, hdip, hleast⟩ :=
      chosenLag_spec (frameDifference x h) (tmin := q.tmin) (tmax := q.tmax) hrange
        (q.diffThreshold * 256)
    dsimp only at hanalyse
    generalize chooseLag (q.diffThreshold * 256)
      (normalise (lagDifferences (frameDifference x h) q.tmin q.tmax) 0 0) = index
      at hanalyse hlow hhigh hdip hleast
    have hindex : index < q.tmax + 1 - q.tmin := by
      have hordered : q.tmin < q.tmax := hrange
      omega
    rw [normalise_lagDifferences _ hindex] at hanalyse
    exact ⟨q.tmin + index, _, _, hlow, hhigh, hdip, hleast,
      refinePeriod_eq (frameDifference x h) hindex, confidenceOf_eq _, hanalyse⟩

end Sys2Proof.Machine
end
